-- ==== Sys2Proof/Word.lean ====
section
/-! DEFINITION. The words of the core and their plainest arithmetic (00_scope.md R7, R9). -/

namespace Sys2Proof

/-- A register or a bus data word: 32 bits (R7, R14). -/
abbrev Word := BitVec 32

/-- A memory byte, a codeword, a GF(256) element (R40, R80). -/
abbrev Byte := BitVec 8

/-- A bus address relative to the base address: 17 bits (R51). -/
abbrev Addr := BitVec 17

end Sys2Proof
end

