-- ==== Sys2Proof/Config.lean ====
section
/-! DEFINITION. What an implementation or the outside fixes: the named open parameters of 00_scope.md R8, each a
constant with no body, so that a claim holds whatever its value is. -/

namespace Sys2Proof

/-- The memory regions of the address map (20_memory.md R53). -/
inductive Region where
  | dataBuf | cwBuf | parBuf | alphaTo | indexOf | genPoly | grid | out
  deriving DecidableEq, Repr

/-- `UNINIT(region, offset)` of R8 and R151: what a byte never written since power-on, or made unspecified by
`rst_n`, reads as. Free value (log entries 3 and 4). -/
opaque Config.uninit (region : Region) (offset : Nat) : Byte

/-- `LATENCY` of R8 and R156 at the `draw`-th free draw: how many steps a command stays BUSY. Free value (log entry 1). -/
opaque Config.latency (draw : Nat) : Nat

/-- The unspecified value of a read during BUSY of what the running command may write (R62), a fresh draw per read.
Free value (log entry 5). -/
opaque Config.busyRead (draw : Nat) : Word

/-- `SampleSubset(count, seed)` of R8 and R124, a host function: the candidate bitmap a sampled search asks for.
Free value (log entry 13); the core only sees the bitmap in CONFIG.MASK_EN. -/
opaque Config.sampleSubset (count seed : Nat) : BitVec 8

/-- `BASE` of R53: where a system puts the 17-bit window. Free value (log entry 13); every rule uses offsets. -/
opaque Config.base : Nat

/-- The source's `mask_search` option (R124). -/
inductive SearchMode where
  | exhaustive
  | sampled (count seed : Nat)
  deriving DecidableEq, Repr

/-- The MASK_EN bitmap by which a host asks for a search (R23, R124). -/
def SearchMode.maskEn : SearchMode → BitVec 8
  | .exhaustive => 0xFF#8
  | .sampled count seed => Config.sampleSubset count seed

/-- The system address of an offset in the core's window (R53). -/
def Config.systemAddress (a : Addr) : Nat := Config.base + a.toNat

end Sys2Proof
end

