-- ==== Sys2Proof/Syntax.lean ====
section
/-! DEFINITION. The commands of the core (30_encoding.md R69 to R72), the host transactions (20_memory.md R51), the
inputs of the machine, and the host-program lines (30_encoding.md R78, R79), each as syntax. -/

namespace Sys2Proof

/-- One constructor per row of the opcode table (R70). The only operand in a command word is MASK, a 3-bit number
used as is (R69). -/
inductive Instr where
  | nop
  | rsInit
  | rsEncode
  | blockEncode
  | frameInit
  | framePlace
  | maskApply (m : BitVec 3)
  | maskEval
  | encodeSymbol
  | reserved9
  | reservedA
  | reservedB
  | reservedC
  | reservedD
  | reservedE
  | softReset
  deriving DecidableEq, Repr

/-- Transaction sizes: 1, 2 or 4 bytes (R51). -/
inductive Size where
  | b1 | b2 | b4
  deriving DecidableEq, Repr

/-- The number of bytes of a transaction. -/
def Size.bytes : Size → Nat
  | .b1 => 1
  | .b2 => 2
  | .b4 => 4

/-- A host transaction (R51). `data` holds the written value in its low bits (log entry 24). -/
inductive Txn where
  | read (addr : Addr) (size : Size)
  | write (addr : Addr) (size : Size) (data : Word)
  deriving DecidableEq, Repr

/-- One thing the outside does to the core between two steps of time: a host transaction (R51), a level put on the
`rst_n` pin or a power-on (R150), or nothing. -/
inductive Input where
  | txn (t : Txn)
  | rstPin (high : Bool)
  | powerOn
  | quiet
  deriving DecidableEq, Repr

/-- What a host transaction answers (R51): the data of a read, `ok` of a write, or `BusError`. -/
inductive Response where
  | data (v : Word)
  | ok
  | busError
  deriving DecidableEq, Repr

/-- The registers of 10_state.md section 3; `reserved` is any offset below 0x200 that it does not list (R16). -/
inductive Reg where
  | id | cmd | status | config | dataLen | cwLen | format | sel | irqEn
  | rsPoly | rsRoot | rsLen | rsSrc | rsAct | geom | cap | blk | verinfo
  | scoreN1 (m : BitVec 3) | scoreN2 (m : BitVec 3) | scoreN3 (m : BitVec 3) | scoreN4 (m : BitVec 3)
  | scoreTotal (m : BitVec 3) | scoreDark (m : BitVec 3)
  | reserved
  deriving DecidableEq, Repr

/-- A line of a host program (R78, R79). Numbers are written as plain numbers; WellFormed says which fit. `wait`
carries how often the host polls, which the notation leaves to the run (log entry 12). -/
inductive HostLine where
  | wr (offset value : Nat)
  | wrb (addr byte : Nat)
  | wrh (addr half : Nat)
  | rd (offset : Nat)
  | rdb (addr : Nat)
  | cmd (i : Instr)
  | wait (polls : Nat)
  | load (addr : Nat) (bytes : List Nat)
  | expect (offset value : Nat)
  | expectb (addr byte : Nat)
  deriving DecidableEq, Repr

end Sys2Proof
end

