-- ==== Sys2Proof/WellFormed.lean ====
section
/-! DEFINITION. Which terms of the syntax stand for something: commands (30_encoding.md R69, R71) and host-program
lines (R78, R79). -/

namespace Sys2Proof

/-- Every command term is well formed: its one operand, MASK, is a 3-bit number and all eight values are mask ids
(R69), and reserved opcodes are commands of their own (R76). -/
def Instr.wellFormed : Instr → Bool
  | .nop => true
  | .rsInit => true
  | .rsEncode => true
  | .blockEncode => true
  | .frameInit => true
  | .framePlace => true
  | .maskApply m => decide (m.toNat ≤ 7)
  | .maskEval => true
  | .encodeSymbol => true
  | .reserved9 => true
  | .reservedA => true
  | .reservedB => true
  | .reservedC => true
  | .reservedD => true
  | .reservedE => true
  | .softReset => true

/-- A register operand: an aligned offset in the register range (R55, R78). -/
def registerOffsetOk (offset : Nat) : Bool := decide (offset < 0x200 ∧ offset % 4 = 0)

/-- An address operand: 17 bits (R51, R78). -/
def addressOk (addr : Nat) : Bool := decide (addr < 2 ^ 17)

/-- A value operand of a given width (R78). -/
def valueOk (bits value : Nat) : Bool := decide (value < 2 ^ bits)

/-- The bytes of a LOAD stay inside the window (R79). -/
def loadOk (addr : Nat) (bytes : List Nat) : Bool :=
  decide (addr + bytes.length ≤ 2 ^ 17) && bytes.all (valueOk 8)

/-- A host-program line whose numbers fit their places (R78, R79). -/
def HostLine.wellFormed : HostLine → Bool
  | .wr offset value => registerOffsetOk offset && valueOk 32 value
  | .wrb addr byte => addressOk addr && valueOk 8 byte
  | .wrh addr half => addressOk addr && valueOk 16 half
  | .rd offset => registerOffsetOk offset
  | .rdb addr => addressOk addr
  | .cmd i => i.wellFormed
  | .wait _ => true
  | .load addr bytes => loadOk addr bytes
  | .expect offset value => registerOffsetOk offset && valueOk 32 value
  | .expectb addr byte => addressOk addr && valueOk 8 byte

end Sys2Proof
end

