-- ==== Sys2Proof/Decode.lean ====
section
/-! DEFINITION. Decoding of command words (30_encoding.md R69 to R71, R76, R77), the encoder after it, and the
expansion of host-program lines into transactions (R78, R79). -/

namespace Sys2Proof

/-- The opcode field OP of a command word (R69). -/
def opField (c : Word) : BitVec 4 := c.extractLsb' 0 4

/-- The MASK field of a command word (R69). -/
def maskField (c : Word) : BitVec 3 := c.extractLsb' 8 3

/-- The command a word selects when it is written to CMD (R70, R71): total, by OP alone and, for OP = 0x6, MASK. -/
def decode (c : Word) : Instr :=
  match (opField c).toNat with
  | 0x0 => .nop
  | 0x1 => .rsInit
  | 0x2 => .rsEncode
  | 0x3 => .blockEncode
  | 0x4 => .frameInit
  | 0x5 => .framePlace
  | 0x6 => .maskApply (maskField c)
  | 0x7 => .maskEval
  | 0x8 => .encodeSymbol
  | 0x9 => .reserved9
  | 0xA => .reservedA
  | 0xB => .reservedB
  | 0xC => .reservedC
  | 0xD => .reservedD
  | 0xE => .reservedE
  | _ => .softReset

/-- Why a list of bytes is no command: the length of every command is one 32-bit word (R77). -/
inductive DecodeError where
  | shorterThanOneWord
  | longerThanOneWord
  deriving DecidableEq, Repr

/-- A word from its four bytes, the first at the lowest address: the byte order of the bus (R57). -/
def wordOfBytes (b0 b1 b2 b3 : Byte) : Word := b3 ++ b2 ++ b1 ++ b0

/-- The command four bytes stand for; any other number of bytes is rejected by name (R77). -/
def decodeBytes : List Byte → Except DecodeError Instr
  | [b0, b1, b2, b3] => .ok (decode (wordOfBytes b0 b1 b2 b3))
  | _ :: _ :: _ :: _ :: _ :: _ => .error .longerThanOneWord
  | _ => .error .shorterThanOneWord

/-- The opcode of a command (R70). -/
def Instr.opcode : Instr → BitVec 4
  | .nop => 0x0#4
  | .rsInit => 0x1#4
  | .rsEncode => 0x2#4
  | .blockEncode => 0x3#4
  | .frameInit => 0x4#4
  | .framePlace => 0x5#4
  | .maskApply _ => 0x6#4
  | .maskEval => 0x7#4
  | .encodeSymbol => 0x8#4
  | .reserved9 => 0x9#4
  | .reservedA => 0xA#4
  | .reservedB => 0xB#4
  | .reservedC => 0xC#4
  | .reservedD => 0xD#4
  | .reservedE => 0xE#4
  | .softReset => 0xF#4

/-- The MASK operand of a command, 0 for a command that ignores the field (R69, R76). -/
def Instr.maskOperand : Instr → BitVec 3
  | .maskApply m => m
  | _ => 0#3

/-- The command word of a command, `(m << 8) OR OP`, every ignored bit 0 (R69, R79). -/
def encode (i : Instr) : Word := 0#21 ++ i.maskOperand ++ 0#4 ++ i.opcode

/-- The four bytes of a command word in bus order (R57). -/
def encodeBytes (i : Instr) : List Byte :=
  (List.range 4).map fun k => (encode i).extractLsb' (8 * k) 8

/-- The command the decoder reads from the opcode table's numbering: a row's `nbits` bits, every bit above them 0. -/
def decodeTableWord (nbits w : Nat) : Option Instr :=
  if nbits ≤ 32 then
    let c : Word := BitVec.ofNat 32 (w % 2 ^ nbits)
    match decodeBytes ((List.range 4).map fun k => c.extractLsb' (8 * k) 8) with
    | .ok i => some i
    | .error _ => none
  else none

/-- The transactions a host-program line performs (R78, R79). EXPECT and EXPECTB are the read they check. -/
def HostLine.expand : HostLine → List Txn
  | .wr offset value => [.write (BitVec.ofNat 17 offset) .b4 (BitVec.ofNat 32 value)]
  | .wrb addr byte => [.write (BitVec.ofNat 17 addr) .b1 (BitVec.ofNat 32 byte)]
  | .wrh addr half => [.write (BitVec.ofNat 17 addr) .b2 (BitVec.ofNat 32 half)]
  | .rd offset => [.read (BitVec.ofNat 17 offset) .b4]
  | .rdb addr => [.read (BitVec.ofNat 17 addr) .b1]
  | .cmd i => [.write 0x004#17 .b4 (encode i)]
  | .wait polls => List.replicate polls (.read 0x008#17 .b4)
  | .load addr bytes => bytes.zipIdx.map fun bk => .write (BitVec.ofNat 17 (addr + bk.2)) .b1 (BitVec.ofNat 32 bk.1)
  | .expect offset _ => [.read (BitVec.ofNat 17 offset) .b4]
  | .expectb addr _ => [.read (BitVec.ofNat 17 addr) .b1]

end Sys2Proof
end

