-- ==== Sys2Proof/Machine/State.lean ====
section
/-! DEFINITION. The state of the core as plain data (10_state.md R13), its faults and refusals, and the state right
after power-on (R50, 70_reset_and_hazards.md R150). -/

namespace Sys2Proof.Machine

/-- The core never stops: a failing command completes with an error code (R138, R141), and an access the map gives no
meaning answers `BusError` to the host with no effect on the core (R54 to R56, log entry 7). So no step faults and
this type has no constructor. -/
inductive Fault where
  deriving DecidableEq, Repr

/-- The refusals of a step. -/
inductive Refusal where
  /-- An instruction without a meaning; `exec` alone could answer it, and no arm does. Safe: the machine stops. -/
  | notModelled (mnemonic : String)
  deriving DecidableEq, Repr

/-- The stored fields of STATUS (R19). BUSY is the engine state (R46) and RS_VALID is whether a tuple is captured
(R44); neither is stored twice. -/
structure Status where
  done : Bool
  err : Bool
  ovr : Bool
  errcode : BitVec 4
  lastop : BitVec 4
  deriving DecidableEq, Repr

/-- CONFIG (R20). -/
structure ConfigReg where
  version : BitVec 6
  level : BitVec 2
  maskEn : BitVec 8
  deriving DecidableEq, Repr

/-- SEL (R27). -/
structure Sel where
  mask : BitVec 3
  valid : Bool
  deriving DecidableEq, Repr

/-- The captured codec tuple (R44). -/
structure CodecTuple where
  gfpoly : BitVec 9
  fcr : BitVec 8
  prim : BitVec 8
  nroots : BitVec 8
  pad : BitVec 8
  deriving DecidableEq, Repr

/-- The scoreboard entry of one mask id (R38, R39). -/
structure ScoreEntry where
  n1 : Word
  n2 : Word
  n3 : Word
  n4 : Word
  total : Word
  dark : Word
  deriving DecidableEq, Repr

/-- The registers that hold a value (10_state.md section 3) and the captured tuple (R44). -/
structure Regs where
  status : Status
  config : ConfigReg
  dataLen : BitVec 12
  cwLen : BitVec 12
  format : BitVec 15
  sel : Sel
  irqEn : Bool
  rsPoly : BitVec 9
  rsFcr : BitVec 8
  rsPrim : BitVec 8
  rsNroots : BitVec 8
  rsPad : BitVec 8
  rsSrc : BitVec 12
  codec : Option CodecTuple
  score : Vector ScoreEntry 8
  deriving DecidableEq, Repr

/-- The engine state (R46). A BUSY engine also carries how many steps are left before it completes (R156). -/
inductive Engine where
  | idle
  | busy (i : Instr) (left : Nat)
  deriving DecidableEq, Repr

/-- The byte memories (R40, R41), one list of bus address and byte for the whole address map. -/
abbrev Memory := List Host.Cell

/-- The state of the core and of its ports. `inputs`, `responses`, `latencies` and `draws` are the model's own fields
(log entries 1, 2, 5, 14): what the outside is about to do, what each transaction answered (newest first), latencies
chosen for coming commands, and how many free values have been drawn. -/
structure State where
  regs : Regs
  engine : Engine
  mem : Memory
  rstN : Bool
  inputs : List Input
  responses : List Response
  latencies : List Nat
  draws : Nat
  deriving DecidableEq, Repr

/-- The entry of a mask that was not evaluated: parts 0, total 0xFFFFFFFF, dark 0 (R38, R39). -/
def ScoreEntry.notEvaluated : ScoreEntry := ⟨0, 0, 0, 0, 0xFFFFFFFF#32, 0⟩

/-- The register values of R50. -/
def Regs.reset : Regs where
  status := ⟨false, false, false, 0#4, 0#4⟩
  config := ⟨1#6, 0#2, 0xFF#8⟩
  dataLen := 0#12
  cwLen := 0#12
  format := 0#15
  sel := ⟨0#3, false⟩
  irqEn := false
  rsPoly := 0x11D#9
  rsFcr := 0#8
  rsPrim := 1#8
  rsNroots := 0#8
  rsPad := 0#8
  rsSrc := 0#12
  codec := none
  score := #v[.notEvaluated, .notEvaluated, .notEvaluated, .notEvaluated,
              .notEvaluated, .notEvaluated, .notEvaluated, .notEvaluated]

/-- The core right after power-on (R50, R150): registers at their reset values, the engine IDLE, no memory byte
written. `rst_n` high, no input waiting, no latency chosen, nothing drawn: log entry 14. -/
def State.reset : State where
  regs := Regs.reset
  engine := .idle
  mem := []
  rstN := true
  inputs := []
  responses := []
  latencies := []
  draws := 0

end Sys2Proof.Machine
end

