-- ==== Sys2Proof/Machine/Flags.lean ====
section
/-! DEFINITION. The STATUS register: its word, what an issue and a completion do to it, what a host write of ones
clears, and the interrupt output (10_state.md R19; 60_exceptions.md R134, R137, R138, R140). -/

namespace Sys2Proof.Machine

/-- The errors a command can raise (R134). -/
inductive CmdError where
  | illegalCommand
  | invalidVersion
  | lengthMismatch
  | invalidRSParameters
  | notReady
  | rangeError
  | noMaskCandidate
  deriving DecidableEq, Repr

/-- The error codes of R134. -/
def CmdError.code : CmdError → BitVec 4
  | .illegalCommand => 1#4
  | .invalidVersion => 2#4
  | .lengthMismatch => 3#4
  | .invalidRSParameters => 4#4
  | .notReady => 5#4
  | .rangeError => 6#4
  | .noMaskCandidate => 7#4

/-- STATUS.BUSY: the engine runs a command (R19, R46). -/
def Engine.isBusy : Engine → Bool
  | .idle => false
  | .busy _ _ => true

/-- STATUS.RS_VALID: a tuple is captured (R44). -/
def Regs.rsValid (r : Regs) : Bool := r.codec.isSome

/-- The STATUS word (R19): RS_VALID at 16, LASTOP at 15:12, ERRCODE at 11:8, OVR, ERR, DONE, BUSY at 3:0. -/
def statusWord (busy rsValid : Bool) (st : Status) : Word :=
  0#15 ++ BitVec.ofBool rsValid ++ st.lastop ++ st.errcode ++ 0#4 ++
    BitVec.ofBool st.ovr ++ BitVec.ofBool st.err ++ BitVec.ofBool st.done ++ BitVec.ofBool busy

/-- STATUS at the issue of a command with opcode `op` (R137); OVR is kept. -/
def Status.issued (st : Status) (op : BitVec 4) : Status :=
  { st with done := false, err := false, errcode := 0#4, lastop := op }

/-- STATUS at a completion without error (R138). -/
def Status.completed (st : Status) : Status :=
  { st with done := true, err := false, errcode := 0#4 }

/-- STATUS at a completion with error `e` (R138). -/
def Status.failed (st : Status) (e : CmdError) : Status :=
  { st with done := true, err := true, errcode := e.code }

/-- What a host write of `v` does to STATUS (R16, R19): ones clear DONE (bit 1) and OVR (bit 3), the rest is RO. -/
def Status.written (st : Status) (v : Word) : Status :=
  { st with done := st.done && !v.getLsbD 1, ovr := st.ovr && !v.getLsbD 3 }

/-- The interrupt output (R140): `irq = IRQ_EN.IE AND STATUS.DONE`. -/
def State.irq (s : State) : Bool := s.regs.irqEn && s.regs.status.done

end Sys2Proof.Machine
end

