-- ==== Sys2Proof/Machine/Ops.lean ====
section
/-! DEFINITION. The named operations over memory and the engine: the address map (20_memory.md R53), reading and
writing bytes (R40, R57, R151), the issue of a command (60_exceptions.md R137), its completion, and `raise`, the
core's one form of taking an exception (R138, R141). -/

namespace Sys2Proof.Machine

/-- The first offset of a region (R53). -/
def regionBase : Region → Nat
  | .dataBuf => 0x01000
  | .cwBuf => 0x02000
  | .parBuf => 0x03000
  | .alphaTo => 0x03100
  | .indexOf => 0x03200
  | .genPoly => 0x03300
  | .grid => 0x08000
  | .out => 0x10000

/-- The size of a region in bytes (R40, R41, R53). -/
def regionSize : Region → Nat
  | .dataBuf => 4096
  | .cwBuf => 4096
  | .parBuf => 256
  | .alphaTo => 256
  | .indexOf => 256
  | .genPoly => 256
  | .grid => 32768
  | .out => 32768

/-- Whether the host may write a region (R53, R59). -/
def regionWritable : Region → Bool
  | .dataBuf => true
  | .cwBuf => true
  | .parBuf => true
  | .alphaTo => false
  | .indexOf => false
  | .genPoly => false
  | .grid => true
  | .out => false

/-- Every region, in address order. -/
def allRegions : List Region :=
  [.dataBuf, .cwBuf, .parBuf, .alphaTo, .indexOf, .genPoly, .grid, .out]

/-- Whether a bus address lies in a region. -/
def inRegion (r : Region) (a : Nat) : Bool :=
  decide (regionBase r ≤ a) && decide (a < regionBase r + regionSize r)

/-- The memory region of a bus address, none for the registers and the unmapped ranges (R53). -/
def regionOf (a : Nat) : Option Region := allRegions.find? fun r => inRegion r a

/-- Whether a bus address is a byte of a codec table (R41, R53). -/
def isTableAddr (a : Nat) : Bool := decide (0x03100 ≤ a) && decide (a < 0x03400)

/-- What a byte that the memory does not list reads as: 0 in the codec tables (R41, R50), UNINIT elsewhere (R151). -/
def Memory.unlisted (a : Nat) : Byte :=
  match regionOf a with
  | some r => if isTableAddr a then 0 else Config.uninit r (a - regionBase r)
  | none => 0

/-- Whether a byte written at an address is listed. In the tables a 0 is not, since an unlisted byte reads as 0
there. Elsewhere every written byte is: UNINIT is a free value, so no byte is known to equal it (log entry 3). -/
def Memory.listed (c : Host.Cell) : Bool := !(isTableAddr c.1 && c.2 == 0)

/-- The canonical form of the memory: addresses strictly rising, each a byte of a region, and no entry known to equal
what its address reads as unlisted. -/
abbrev Memory.wf (m : Memory) : Prop :=
  m.Pairwise (fun c d => c.1 < d.1) ∧ ∀ c ∈ m, (regionOf c.1).isSome ∧ Memory.listed c

/-- The byte at a bus address (R40, R151). -/
def Memory.read (m : Memory) (a : Nat) : Byte :=
  match m.lookup a with
  | some b => b
  | none => Memory.unlisted a

/-- Bytes at rising addresses, as memory entries. -/
def cellsFrom : Nat → List Byte → List Host.Cell
  | _, [] => []
  | a, b :: bs => (a, b) :: cellsFrom (a + 1) bs

/-- Write bytes at `base` onward, at one moment (R60). -/
def Memory.store (m : Memory) (base : Nat) (bytes : List Byte) : Memory :=
  m.filter (fun c => decide (c.1 < base)) ++ (cellsFrom base bytes).filter Memory.listed ++
    m.filter (fun c => decide (base + bytes.length ≤ c.1))

/-- Make every byte whose address satisfies `p` unlisted again: what a reset does to the codec tables (R50) and an
abandoned command to the bytes it may write (R150, R151). -/
def Memory.forget (m : Memory) (p : Nat → Bool) : Memory := m.filter fun c => !p c.1

/-- The bytes at `base` onward. -/
def Memory.readBlock (m : Memory) (base len : Nat) : List Byte :=
  (List.range len).map fun k => m.read (base + k)

/-- The first `len` bytes of a region: how a command reads a buffer (00_scope.md R11). -/
def Memory.readBuf (m : Memory) (r : Region) (off len : Nat) : List Byte :=
  m.readBlock (regionBase r + off) len

/-- Write bytes at the start of a region: how a command writes a buffer (R11). -/
def Memory.storeBuf (m : Memory) (r : Region) (bytes : List Byte) : Memory := m.store (regionBase r) bytes

/-- Little-endian composition (R57): the first byte in bits 7:0. -/
def composeLE : List Byte → Word
  | [] => 0
  | b :: bs => b.setWidth 32 ||| (composeLE bs <<< 8)

/-- The `n` bytes of a written value in address order (R57): byte i is bits 8i+7 to 8i. -/
def splitLE (n : Nat) (v : Word) : List Byte := (List.range n).map fun k => v.extractLsb' (8 * k) 8

/-- The issue of a command (R137), which is to stay BUSY for `left` more steps. -/
def issue (i : Instr) (left : Nat) (s : State) : State :=
  { s with
    regs := { s.regs with status := s.regs.status.issued i.opcode }
    engine := .busy i left }

/-- Completion without error (R138). -/
def complete (s : State) : State :=
  { s with
    regs := { s.regs with status := s.regs.status.completed }
    engine := .idle }

/-- `raise E` (R11): the command ends at once with error `e` and completes (R138). This is the core's whole exception
entry (R141): ERR, ERRCODE and LASTOP are saved in STATUS and the engine returns to IDLE. -/
def raise (e : CmdError) (s : State) : State :=
  { s with
    regs := { s.regs with status := s.regs.status.failed e }
    engine := .idle }

/-- The acknowledgement of a completion (R142), the core's nearest thing to a return from an exception: a host write
of 1 to DONE. It restores nothing. -/
def acknowledge (v : Word) (s : State) : State :=
  { s with regs := { s.regs with status := s.regs.status.written v } }

/-- Memory after a reset of the codec tables: all their bytes 0 (R41, R50). -/
def clearTables (m : Memory) : Memory := m.forget isTableAddr

end Sys2Proof.Machine
end

