-- ==== Sys2Proof/Machine/Tables.lean ====
section
/-! DEFINITION. The constant tables of the core (10_state.md R48): the version table (41_blocks.md R90, R91), the
block table (R92) and the format words (43_mask.md R114). -/

namespace Sys2Proof.Machine

/-- The error-correction levels (00_scope.md R2). -/
inductive Level where
  | L | M | Q | H
  deriving DecidableEq, Repr

/-- The register encoding of the level (10_state.md R22): 0 = L, 1 = M, 2 = Q, 3 = H. -/
def Level.ofField (f : BitVec 2) : Level :=
  match f.toNat with
  | 0 => .L
  | 1 => .M
  | 2 => .Q
  | _ => .H

/-- A row of the version table (R91). -/
structure VersionRow where
  total : Nat
  rem : Nat
  align : List Nat
  vword : BitVec 18
  deriving DecidableEq, Repr

/-- A cell of the block table (R92): ECC parity bytes per block, B1 blocks of DL1 data bytes, B2 of DL1 + 1. -/
structure BlockSpec where
  ecc : Nat
  b1 : Nat
  dl1 : Nat
  b2 : Nat
  deriving DecidableEq, Repr

/-- A row of the block table (R92). -/
structure BlockRow where
  l : BlockSpec
  m : BlockSpec
  q : BlockSpec
  h : BlockSpec
  deriving DecidableEq, Repr

/-- N, the number of blocks (R93). -/
def BlockSpec.blocks (k : BlockSpec) : Nat := k.b1 + k.b2

/-- DATA, the data-codeword capacity (R92). -/
def BlockSpec.data (k : BlockSpec) : Nat := k.b1 * k.dl1 + k.b2 * (k.dl1 + 1)

/-- The level's cell of a block row (R92). -/
def BlockRow.at (r : BlockRow) : Level → BlockSpec
  | .L => r.l
  | .M => r.m
  | .Q => r.q
  | .H => r.h

/-- R91 (41_blocks.md): total codewords, remainder bits, alignment coordinates, version word, versions 1 to 10. -/
def versionRows1to10 : List VersionRow :=
  [ ⟨26, 0, [], 0x00000#18⟩
  , ⟨44, 7, [6, 18], 0x00000#18⟩
  , ⟨70, 7, [6, 22], 0x00000#18⟩
  , ⟨100, 7, [6, 26], 0x00000#18⟩
  , ⟨134, 7, [6, 30], 0x00000#18⟩
  , ⟨172, 7, [6, 34], 0x00000#18⟩
  , ⟨196, 0, [6, 22, 38], 0x07C94#18⟩
  , ⟨242, 0, [6, 24, 42], 0x085BC#18⟩
  , ⟨292, 0, [6, 26, 46], 0x09A99#18⟩
  , ⟨346, 0, [6, 28, 50], 0x0A4D3#18⟩ ]

/-- R91 (41_blocks.md): total codewords, remainder bits, alignment coordinates, version word, versions 11 to 20. -/
def versionRows11to20 : List VersionRow :=
  [ ⟨404, 0, [6, 30, 54], 0x0BBF6#18⟩
  , ⟨466, 0, [6, 32, 58], 0x0C762#18⟩
  , ⟨532, 0, [6, 34, 62], 0x0D847#18⟩
  , ⟨581, 3, [6, 26, 46, 66], 0x0E60D#18⟩
  , ⟨655, 3, [6, 26, 48, 70], 0x0F928#18⟩
  , ⟨733, 3, [6, 26, 50, 74], 0x10B78#18⟩
  , ⟨815, 3, [6, 30, 54, 78], 0x1145D#18⟩
  , ⟨901, 3, [6, 30, 56, 82], 0x12A17#18⟩
  , ⟨991, 3, [6, 30, 58, 86], 0x13532#18⟩
  , ⟨1085, 3, [6, 34, 62, 90], 0x149A6#18⟩ ]

/-- R91 (41_blocks.md): total codewords, remainder bits, alignment coordinates, version word, versions 21 to 30. -/
def versionRows21to30 : List VersionRow :=
  [ ⟨1156, 4, [6, 28, 50, 72, 94], 0x15683#18⟩
  , ⟨1258, 4, [6, 26, 50, 74, 98], 0x168C9#18⟩
  , ⟨1364, 4, [6, 30, 54, 78, 102], 0x177EC#18⟩
  , ⟨1474, 4, [6, 28, 54, 80, 106], 0x18EC4#18⟩
  , ⟨1588, 4, [6, 32, 58, 84, 110], 0x191E1#18⟩
  , ⟨1706, 4, [6, 30, 58, 86, 114], 0x1AFAB#18⟩
  , ⟨1828, 4, [6, 34, 62, 90, 118], 0x1B08E#18⟩
  , ⟨1921, 3, [6, 26, 50, 74, 98, 122], 0x1CC1A#18⟩
  , ⟨2051, 3, [6, 30, 54, 78, 102, 126], 0x1D33F#18⟩
  , ⟨2185, 3, [6, 26, 52, 78, 104, 130], 0x1ED75#18⟩ ]

/-- R91 (41_blocks.md): total codewords, remainder bits, alignment coordinates, version word, versions 31 to 40. -/
def versionRows31to40 : List VersionRow :=
  [ ⟨2323, 3, [6, 30, 56, 82, 108, 134], 0x1F250#18⟩
  , ⟨2465, 3, [6, 34, 60, 86, 112, 138], 0x209D5#18⟩
  , ⟨2611, 3, [6, 30, 58, 86, 114, 142], 0x216F0#18⟩
  , ⟨2761, 3, [6, 34, 62, 90, 118, 146], 0x228BA#18⟩
  , ⟨2876, 0, [6, 30, 54, 78, 102, 126, 150], 0x2379F#18⟩
  , ⟨3034, 0, [6, 24, 50, 76, 102, 128, 154], 0x24B0B#18⟩
  , ⟨3196, 0, [6, 28, 54, 80, 106, 132, 158], 0x2542E#18⟩
  , ⟨3362, 0, [6, 32, 58, 84, 110, 136, 162], 0x26A64#18⟩
  , ⟨3532, 0, [6, 26, 54, 82, 110, 138, 166], 0x27541#18⟩
  , ⟨3706, 0, [6, 30, 58, 86, 114, 142, 170], 0x28C69#18⟩ ]

/-- The version table (R91), versions 1 to 40. -/
def versionTable : List VersionRow :=
  versionRows1to10 ++ versionRows11to20 ++ versionRows21to30 ++ versionRows31to40

/-- R92 (41_blocks.md): (ECC, B1, DL1, B2) at levels L, M, Q, H, versions 1 to 10. -/
def blockRows1to10 : List BlockRow :=
  [ ⟨⟨7, 1, 19, 0⟩, ⟨10, 1, 16, 0⟩, ⟨13, 1, 13, 0⟩, ⟨17, 1, 9, 0⟩⟩
  , ⟨⟨10, 1, 34, 0⟩, ⟨16, 1, 28, 0⟩, ⟨22, 1, 22, 0⟩, ⟨28, 1, 16, 0⟩⟩
  , ⟨⟨15, 1, 55, 0⟩, ⟨26, 1, 44, 0⟩, ⟨18, 2, 17, 0⟩, ⟨22, 2, 13, 0⟩⟩
  , ⟨⟨20, 1, 80, 0⟩, ⟨18, 2, 32, 0⟩, ⟨26, 2, 24, 0⟩, ⟨16, 4, 9, 0⟩⟩
  , ⟨⟨26, 1, 108, 0⟩, ⟨24, 2, 43, 0⟩, ⟨18, 2, 15, 2⟩, ⟨22, 2, 11, 2⟩⟩
  , ⟨⟨18, 2, 68, 0⟩, ⟨16, 4, 27, 0⟩, ⟨24, 4, 19, 0⟩, ⟨28, 4, 15, 0⟩⟩
  , ⟨⟨20, 2, 78, 0⟩, ⟨18, 4, 31, 0⟩, ⟨18, 2, 14, 4⟩, ⟨26, 4, 13, 1⟩⟩
  , ⟨⟨24, 2, 97, 0⟩, ⟨22, 2, 38, 2⟩, ⟨22, 4, 18, 2⟩, ⟨26, 4, 14, 2⟩⟩
  , ⟨⟨30, 2, 116, 0⟩, ⟨22, 3, 36, 2⟩, ⟨20, 4, 16, 4⟩, ⟨24, 4, 12, 4⟩⟩
  , ⟨⟨18, 2, 68, 2⟩, ⟨26, 4, 43, 1⟩, ⟨24, 6, 19, 2⟩, ⟨28, 6, 15, 2⟩⟩ ]

/-- R92 (41_blocks.md): (ECC, B1, DL1, B2) at levels L, M, Q, H, versions 11 to 20. -/
def blockRows11to20 : List BlockRow :=
  [ ⟨⟨20, 4, 81, 0⟩, ⟨30, 1, 50, 4⟩, ⟨28, 4, 22, 4⟩, ⟨24, 3, 12, 8⟩⟩
  , ⟨⟨24, 2, 92, 2⟩, ⟨22, 6, 36, 2⟩, ⟨26, 4, 20, 6⟩, ⟨28, 7, 14, 4⟩⟩
  , ⟨⟨26, 4, 107, 0⟩, ⟨22, 8, 37, 1⟩, ⟨24, 8, 20, 4⟩, ⟨22, 12, 11, 4⟩⟩
  , ⟨⟨30, 3, 115, 1⟩, ⟨24, 4, 40, 5⟩, ⟨20, 11, 16, 5⟩, ⟨24, 11, 12, 5⟩⟩
  , ⟨⟨22, 5, 87, 1⟩, ⟨24, 5, 41, 5⟩, ⟨30, 5, 24, 7⟩, ⟨24, 11, 12, 7⟩⟩
  , ⟨⟨24, 5, 98, 1⟩, ⟨28, 7, 45, 3⟩, ⟨24, 15, 19, 2⟩, ⟨30, 3, 15, 13⟩⟩
  , ⟨⟨28, 1, 107, 5⟩, ⟨28, 10, 46, 1⟩, ⟨28, 1, 22, 15⟩, ⟨28, 2, 14, 17⟩⟩
  , ⟨⟨30, 5, 120, 1⟩, ⟨26, 9, 43, 4⟩, ⟨28, 17, 22, 1⟩, ⟨28, 2, 14, 19⟩⟩
  , ⟨⟨28, 3, 113, 4⟩, ⟨26, 3, 44, 11⟩, ⟨26, 17, 21, 4⟩, ⟨26, 9, 13, 16⟩⟩
  , ⟨⟨28, 3, 107, 5⟩, ⟨26, 3, 41, 13⟩, ⟨30, 15, 24, 5⟩, ⟨28, 15, 15, 10⟩⟩ ]

/-- R92 (41_blocks.md): (ECC, B1, DL1, B2) at levels L, M, Q, H, versions 21 to 30. -/
def blockRows21to30 : List BlockRow :=
  [ ⟨⟨28, 4, 116, 4⟩, ⟨26, 17, 42, 0⟩, ⟨28, 17, 22, 6⟩, ⟨30, 19, 16, 6⟩⟩
  , ⟨⟨28, 2, 111, 7⟩, ⟨28, 17, 46, 0⟩, ⟨30, 7, 24, 16⟩, ⟨24, 34, 13, 0⟩⟩
  , ⟨⟨30, 4, 121, 5⟩, ⟨28, 4, 47, 14⟩, ⟨30, 11, 24, 14⟩, ⟨30, 16, 15, 14⟩⟩
  , ⟨⟨30, 6, 117, 4⟩, ⟨28, 6, 45, 14⟩, ⟨30, 11, 24, 16⟩, ⟨30, 30, 16, 2⟩⟩
  , ⟨⟨26, 8, 106, 4⟩, ⟨28, 8, 47, 13⟩, ⟨30, 7, 24, 22⟩, ⟨30, 22, 15, 13⟩⟩
  , ⟨⟨28, 10, 114, 2⟩, ⟨28, 19, 46, 4⟩, ⟨28, 28, 22, 6⟩, ⟨30, 33, 16, 4⟩⟩
  , ⟨⟨30, 8, 122, 4⟩, ⟨28, 22, 45, 3⟩, ⟨30, 8, 23, 26⟩, ⟨30, 12, 15, 28⟩⟩
  , ⟨⟨30, 3, 117, 10⟩, ⟨28, 3, 45, 23⟩, ⟨30, 4, 24, 31⟩, ⟨30, 11, 15, 31⟩⟩
  , ⟨⟨30, 7, 116, 7⟩, ⟨28, 21, 45, 7⟩, ⟨30, 1, 23, 37⟩, ⟨30, 19, 15, 26⟩⟩
  , ⟨⟨30, 5, 115, 10⟩, ⟨28, 19, 47, 10⟩, ⟨30, 15, 24, 25⟩, ⟨30, 23, 15, 25⟩⟩ ]

/-- R92 (41_blocks.md): (ECC, B1, DL1, B2) at levels L, M, Q, H, versions 31 to 40. -/
def blockRows31to40 : List BlockRow :=
  [ ⟨⟨30, 13, 115, 3⟩, ⟨28, 2, 46, 29⟩, ⟨30, 42, 24, 1⟩, ⟨30, 23, 15, 28⟩⟩
  , ⟨⟨30, 17, 115, 0⟩, ⟨28, 10, 46, 23⟩, ⟨30, 10, 24, 35⟩, ⟨30, 19, 15, 35⟩⟩
  , ⟨⟨30, 17, 115, 1⟩, ⟨28, 14, 46, 21⟩, ⟨30, 29, 24, 19⟩, ⟨30, 11, 15, 46⟩⟩
  , ⟨⟨30, 13, 115, 6⟩, ⟨28, 14, 46, 23⟩, ⟨30, 44, 24, 7⟩, ⟨30, 59, 16, 1⟩⟩
  , ⟨⟨30, 12, 121, 7⟩, ⟨28, 12, 47, 26⟩, ⟨30, 39, 24, 14⟩, ⟨30, 22, 15, 41⟩⟩
  , ⟨⟨30, 6, 121, 14⟩, ⟨28, 6, 47, 34⟩, ⟨30, 46, 24, 10⟩, ⟨30, 2, 15, 64⟩⟩
  , ⟨⟨30, 17, 122, 4⟩, ⟨28, 29, 46, 14⟩, ⟨30, 49, 24, 10⟩, ⟨30, 24, 15, 46⟩⟩
  , ⟨⟨30, 4, 122, 18⟩, ⟨28, 13, 46, 32⟩, ⟨30, 48, 24, 14⟩, ⟨30, 42, 15, 32⟩⟩
  , ⟨⟨30, 20, 117, 4⟩, ⟨28, 40, 47, 7⟩, ⟨30, 43, 24, 22⟩, ⟨30, 10, 15, 67⟩⟩
  , ⟨⟨30, 19, 118, 6⟩, ⟨28, 18, 47, 31⟩, ⟨30, 34, 24, 34⟩, ⟨30, 20, 15, 61⟩⟩ ]

/-- The block table (R92), versions 1 to 40. -/
def blockTable : List BlockRow :=
  blockRows1to10 ++ blockRows11to20 ++ blockRows21to30 ++ blockRows31to40

/-- The module width of a version (R90). -/
def width (v : Nat) : Nat := 21 + 4 * (v - 1)

/-- What the core knows of a legal version. -/
structure Geometry where
  version : Nat
  total : Nat
  rem : Nat
  align : List Nat
  vword : BitVec 18
  blocks : BlockRow
  deriving DecidableEq, Repr

/-- The module width of a geometry (R90). -/
def Geometry.width (g : Geometry) : Nat := Machine.width g.version

/-- The number of modules of a symbol. -/
def Geometry.modules (g : Geometry) : Nat := g.width * g.width

/-- The tables' rows of a version; none for an illegal one (10_state.md R21). -/
def geometry (v : Nat) : Option Geometry :=
  if v = 0 then none
  else
    match versionTable[v - 1]?, blockTable[v - 1]? with
    | some r, some b => some ⟨v, r.total, r.rem, r.align, r.vword, b⟩
    | _, _ => none

/-- The format words of a level for masks 0 to 7 (R114). -/
def formatRow : Level → List (BitVec 15)
  | .L => [0x77C4#15, 0x72F3#15, 0x7DAA#15, 0x789D#15, 0x662F#15, 0x6318#15, 0x6C41#15, 0x6976#15]
  | .M => [0x5412#15, 0x5125#15, 0x5E7C#15, 0x5B4B#15, 0x45F9#15, 0x40CE#15, 0x4F97#15, 0x4AA0#15]
  | .Q => [0x355F#15, 0x3068#15, 0x3F31#15, 0x3A06#15, 0x24B4#15, 0x2183#15, 0x2EDA#15, 0x2BED#15]
  | .H => [0x1689#15, 0x13BE#15, 0x1CE7#15, 0x19D0#15, 0x0762#15, 0x0255#15, 0x0D0C#15, 0x083B#15]

/-- The format word of a level and a mask (R114). -/
def formatWord (lvl : Level) (m : BitVec 3) : BitVec 15 := (formatRow lvl).getD m.toNat 0#15

/-- The level bits inside the format word (R114), not the register encoding. -/
def levelIndicator : Level → BitVec 2
  | .L => 0b01#2
  | .M => 0b00#2
  | .Q => 0b11#2
  | .H => 0b10#2

/-- One step of a division by a generator over GF(2) (R105, R114): shift, and subtract the generator when the bit
about to leave the remainder is 1. -/
def bchStep (top : Nat) (gen : BitVec 32) (r : BitVec 32) : BitVec 32 :=
  (r <<< 1) ^^^ (if r.getLsbD top then gen else 0#32)

/-- `n` steps of the division. -/
def bchSteps (top : Nat) (gen : BitVec 32) : Nat → BitVec 32 → BitVec 32
  | 0, r => r
  | n + 1, r => bchSteps top gen n (bchStep top gen r)

/-- The format word as R114 computes it, which the table holds. -/
def formatWordComputed (lvl : Level) (m : BitVec 3) : BitVec 15 :=
  let d : BitVec 32 := (levelIndicator lvl ++ m).setWidth 32
  let r := bchSteps 9 0x537#32 10 d
  (((d <<< 10) ||| (r &&& 0x3FF#32)) ^^^ 0x5412#32).setWidth 15

/-- The version word as R105 computes it, which the table holds for versions 7 to 40. -/
def versionWordComputed (v : Nat) : BitVec 18 :=
  let d : BitVec 32 := BitVec.ofNat 32 v
  let r := bchSteps 11 0x1F25#32 12 d
  ((d <<< 12) ||| (r &&& 0xFFF#32)).setWidth 18

end Sys2Proof.Machine
end

