-- ==== Sys2Proof/Machine/Gf.lean ====
section
/-! DEFINITION. GF(256) arithmetic and Reed-Solomon parity (40_rs_codec.md R80 to R84, R86, R87), and the constant
tables of the fixed QR codec (41_blocks.md R94). -/

namespace Sys2Proof.Machine

/-- Log and antilog tables (R81), 256 entries each. -/
structure GfTables where
  alpha : List Byte
  index : List Byte
  deriving DecidableEq, Repr

/-- Multiplication by x modulo P (R81): `((s << 1) XOR (P if s[7])) AND 0xFF`. -/
def timesX (P : BitVec 9) (s : Byte) : Byte :=
  (s <<< 1) ^^^ (if s.getLsbD 7 then P.setWidth 8 else 0#8)

/-- The sequence `s, x s, x^2 s, …` of `n` elements (R81). -/
def powersOf (P : BitVec 9) : Nat → Byte → List Byte
  | 0, _ => []
  | n + 1, s => s :: powersOf P n (timesX P s)

/-- `s_0` to `s_255` of R81. -/
def fieldSequence (P : BitVec 9) : List Byte := powersOf P 256 1#8

/-- P is primitive (R81): `s_0` to `s_254` are pairwise distinct and non-zero, and `s_255 = 1`. -/
def primitive (P : BitVec 9) : Bool :=
  let s := fieldSequence P
  decide ((s.take 255).Nodup) && (s.take 255).all (fun b => b != 0#8) && (s.getD 255 0#8 == 1#8)

/-- `alpha_to` (R81): `α^i` for i < 255, then the entry 0 that stands for log(0). -/
def antilogTable (P : BitVec 9) : List Byte := (fieldSequence P).take 255 ++ [0#8]

/-- `index_of` (R81): `index_of[s_i] = i` and `index_of[0] = 255`. -/
def logTable (P : BitVec 9) : List Byte :=
  (List.range 256).map fun a =>
    if a = 0 then 255#8 else BitVec.ofNat 8 ((fieldSequence P).idxOf (BitVec.ofNat 8 a))

/-- The tables of a primitive field polynomial (R81). -/
def gfTables (P : BitVec 9) : GfTables := ⟨antilogTable P, logTable P⟩

/-- Addition (R82). -/
def gfAdd (a b : Byte) : Byte := a ^^^ b

/-- `index_of[a]` as an exponent (R82). -/
def GfTables.log (t : GfTables) (a : Byte) : Nat := (t.index.getD a.toNat 0#8).toNat

/-- `gf_pow(e) = α^e` (R82). -/
def GfTables.pow (t : GfTables) (e : Nat) : Byte := t.alpha.getD (e % 255) 0#8

/-- `gf_mul` (R82). -/
def GfTables.mul (t : GfTables) (a b : Byte) : Byte :=
  if a = 0#8 ∨ b = 0#8 then 0#8 else t.pow (t.log a + t.log b)

/-- The bytes of two lists added, to the length of the shorter (R82). -/
def xorBytes (a b : List Byte) : List Byte := a.zipWith gfAdd b

/-- A polynomial, lowest degree first, multiplied by `(x − r)` (R84): `g[k−1] XOR r·g[k]`. -/
def mulRoot (mul : Byte → Byte → Byte) (r : Byte) (g : List Byte) : List Byte :=
  xorBytes (0#8 :: g) (g.map (fun c => mul c r) ++ [0#8])

/-- The root exponents `r_i = ((FCR + i) · PRIM) mod 255` (R84). -/
def rootExponent (fcr prim i : Nat) : Nat := ((fcr + i) * prim) % 255

/-- The generator polynomial, lowest degree first, `n + 1` coefficients, the last 1 (R84). -/
def generator (t : GfTables) (fcr prim : Nat) : Nat → List Byte
  | 0 => [1#8]
  | n + 1 => mulRoot t.mul (t.pow (rootExponent fcr prim n)) (generator t fcr prim n)

/-- One step of the shift register of R87 with feedback `fb`; `gTop` is `g[n−1], …, g[0]`. -/
def shiftStep (mul : Byte → Byte → Byte) (gTop par : List Byte) (fb : Byte) : List Byte :=
  xorBytes (par.tail ++ [0#8]) (gTop.map (mul fb))

/-- The shift register of R87 run over the data bytes. -/
def shiftRegister (mul : Byte → Byte → Byte) (gTop : List Byte) : List Byte → List Byte → List Byte
  | par, [] => par
  | par, d :: ds => shiftRegister mul gTop (shiftStep mul gTop par (gfAdd d (par.headD 0#8))) ds

/-- `g[n−1], …, g[0]` of a generator polynomial of degree n. -/
def lowerHighFirst (n : Nat) (g : List Byte) : List Byte := (g.take n).reverse

/-- The `n` parity bytes of a block (R87). -/
def parity (mul : Byte → Byte → Byte) (n : Nat) (g data : List Byte) : List Byte :=
  shiftRegister mul (lowerHighFirst n g) (List.replicate n 0#8) data

/-- The bytes of `b` added into the first bytes of `a`. -/
def xorInto : List Byte → List Byte → List Byte
  | a :: as, b :: bs => gfAdd a b :: xorInto as bs
  | as, [] => as
  | [], _ :: _ => []

/-- Long division by a monic polynomial (R86): `steps` times, take the leading coefficient off and subtract its
multiple of the divisor's lower coefficients `gTop`. Coefficients highest degree first. -/
def longDivision (mul : Byte → Byte → Byte) (gTop : List Byte) : Nat → List Byte → List Byte
  | 0, w => w
  | _ + 1, [] => []
  | k + 1, c :: rest => longDivision mul gTop k (xorInto rest (gTop.map (mul c)))

/-- `(D(x) · x^n) mod g(x)` (R86), highest degree first: the definition the shift register is to meet. -/
def divisionRemainder (mul : Byte → Byte → Byte) (n : Nat) (g data : List Byte) : List Byte :=
  longDivision mul (lowerHighFirst n g) data.length (data ++ List.replicate n 0#8)

/-- R81, R94: the antilog table of the field 0x11D, entries 0 to 63. -/
def qrAlphaTo0 : List Byte :=
  [ 0x01#8, 0x02#8, 0x04#8, 0x08#8, 0x10#8, 0x20#8, 0x40#8, 0x80#8, 0x1D#8, 0x3A#8, 0x74#8, 0xE8#8, 0xCD#8, 0x87#8, 0x13#8, 0x26#8
  , 0x4C#8, 0x98#8, 0x2D#8, 0x5A#8, 0xB4#8, 0x75#8, 0xEA#8, 0xC9#8, 0x8F#8, 0x03#8, 0x06#8, 0x0C#8, 0x18#8, 0x30#8, 0x60#8, 0xC0#8
  , 0x9D#8, 0x27#8, 0x4E#8, 0x9C#8, 0x25#8, 0x4A#8, 0x94#8, 0x35#8, 0x6A#8, 0xD4#8, 0xB5#8, 0x77#8, 0xEE#8, 0xC1#8, 0x9F#8, 0x23#8
  , 0x46#8, 0x8C#8, 0x05#8, 0x0A#8, 0x14#8, 0x28#8, 0x50#8, 0xA0#8, 0x5D#8, 0xBA#8, 0x69#8, 0xD2#8, 0xB9#8, 0x6F#8, 0xDE#8, 0xA1#8 ]

/-- R81, R94: the antilog table of the field 0x11D, entries 64 to 127. -/
def qrAlphaTo1 : List Byte :=
  [ 0x5F#8, 0xBE#8, 0x61#8, 0xC2#8, 0x99#8, 0x2F#8, 0x5E#8, 0xBC#8, 0x65#8, 0xCA#8, 0x89#8, 0x0F#8, 0x1E#8, 0x3C#8, 0x78#8, 0xF0#8
  , 0xFD#8, 0xE7#8, 0xD3#8, 0xBB#8, 0x6B#8, 0xD6#8, 0xB1#8, 0x7F#8, 0xFE#8, 0xE1#8, 0xDF#8, 0xA3#8, 0x5B#8, 0xB6#8, 0x71#8, 0xE2#8
  , 0xD9#8, 0xAF#8, 0x43#8, 0x86#8, 0x11#8, 0x22#8, 0x44#8, 0x88#8, 0x0D#8, 0x1A#8, 0x34#8, 0x68#8, 0xD0#8, 0xBD#8, 0x67#8, 0xCE#8
  , 0x81#8, 0x1F#8, 0x3E#8, 0x7C#8, 0xF8#8, 0xED#8, 0xC7#8, 0x93#8, 0x3B#8, 0x76#8, 0xEC#8, 0xC5#8, 0x97#8, 0x33#8, 0x66#8, 0xCC#8 ]

/-- R81, R94: the antilog table of the field 0x11D, entries 128 to 191. -/
def qrAlphaTo2 : List Byte :=
  [ 0x85#8, 0x17#8, 0x2E#8, 0x5C#8, 0xB8#8, 0x6D#8, 0xDA#8, 0xA9#8, 0x4F#8, 0x9E#8, 0x21#8, 0x42#8, 0x84#8, 0x15#8, 0x2A#8, 0x54#8
  , 0xA8#8, 0x4D#8, 0x9A#8, 0x29#8, 0x52#8, 0xA4#8, 0x55#8, 0xAA#8, 0x49#8, 0x92#8, 0x39#8, 0x72#8, 0xE4#8, 0xD5#8, 0xB7#8, 0x73#8
  , 0xE6#8, 0xD1#8, 0xBF#8, 0x63#8, 0xC6#8, 0x91#8, 0x3F#8, 0x7E#8, 0xFC#8, 0xE5#8, 0xD7#8, 0xB3#8, 0x7B#8, 0xF6#8, 0xF1#8, 0xFF#8
  , 0xE3#8, 0xDB#8, 0xAB#8, 0x4B#8, 0x96#8, 0x31#8, 0x62#8, 0xC4#8, 0x95#8, 0x37#8, 0x6E#8, 0xDC#8, 0xA5#8, 0x57#8, 0xAE#8, 0x41#8 ]

/-- R81, R94: the antilog table of the field 0x11D, entries 192 to 255. -/
def qrAlphaTo3 : List Byte :=
  [ 0x82#8, 0x19#8, 0x32#8, 0x64#8, 0xC8#8, 0x8D#8, 0x07#8, 0x0E#8, 0x1C#8, 0x38#8, 0x70#8, 0xE0#8, 0xDD#8, 0xA7#8, 0x53#8, 0xA6#8
  , 0x51#8, 0xA2#8, 0x59#8, 0xB2#8, 0x79#8, 0xF2#8, 0xF9#8, 0xEF#8, 0xC3#8, 0x9B#8, 0x2B#8, 0x56#8, 0xAC#8, 0x45#8, 0x8A#8, 0x09#8
  , 0x12#8, 0x24#8, 0x48#8, 0x90#8, 0x3D#8, 0x7A#8, 0xF4#8, 0xF5#8, 0xF7#8, 0xF3#8, 0xFB#8, 0xEB#8, 0xCB#8, 0x8B#8, 0x0B#8, 0x16#8
  , 0x2C#8, 0x58#8, 0xB0#8, 0x7D#8, 0xFA#8, 0xE9#8, 0xCF#8, 0x83#8, 0x1B#8, 0x36#8, 0x6C#8, 0xD8#8, 0xAD#8, 0x47#8, 0x8E#8, 0x00#8 ]

/-- R81, R94: the log table of the field 0x11D, entries 0 to 63. -/
def qrIndexOf0 : List Byte :=
  [ 0xFF#8, 0x00#8, 0x01#8, 0x19#8, 0x02#8, 0x32#8, 0x1A#8, 0xC6#8, 0x03#8, 0xDF#8, 0x33#8, 0xEE#8, 0x1B#8, 0x68#8, 0xC7#8, 0x4B#8
  , 0x04#8, 0x64#8, 0xE0#8, 0x0E#8, 0x34#8, 0x8D#8, 0xEF#8, 0x81#8, 0x1C#8, 0xC1#8, 0x69#8, 0xF8#8, 0xC8#8, 0x08#8, 0x4C#8, 0x71#8
  , 0x05#8, 0x8A#8, 0x65#8, 0x2F#8, 0xE1#8, 0x24#8, 0x0F#8, 0x21#8, 0x35#8, 0x93#8, 0x8E#8, 0xDA#8, 0xF0#8, 0x12#8, 0x82#8, 0x45#8
  , 0x1D#8, 0xB5#8, 0xC2#8, 0x7D#8, 0x6A#8, 0x27#8, 0xF9#8, 0xB9#8, 0xC9#8, 0x9A#8, 0x09#8, 0x78#8, 0x4D#8, 0xE4#8, 0x72#8, 0xA6#8 ]

/-- R81, R94: the log table of the field 0x11D, entries 64 to 127. -/
def qrIndexOf1 : List Byte :=
  [ 0x06#8, 0xBF#8, 0x8B#8, 0x62#8, 0x66#8, 0xDD#8, 0x30#8, 0xFD#8, 0xE2#8, 0x98#8, 0x25#8, 0xB3#8, 0x10#8, 0x91#8, 0x22#8, 0x88#8
  , 0x36#8, 0xD0#8, 0x94#8, 0xCE#8, 0x8F#8, 0x96#8, 0xDB#8, 0xBD#8, 0xF1#8, 0xD2#8, 0x13#8, 0x5C#8, 0x83#8, 0x38#8, 0x46#8, 0x40#8
  , 0x1E#8, 0x42#8, 0xB6#8, 0xA3#8, 0xC3#8, 0x48#8, 0x7E#8, 0x6E#8, 0x6B#8, 0x3A#8, 0x28#8, 0x54#8, 0xFA#8, 0x85#8, 0xBA#8, 0x3D#8
  , 0xCA#8, 0x5E#8, 0x9B#8, 0x9F#8, 0x0A#8, 0x15#8, 0x79#8, 0x2B#8, 0x4E#8, 0xD4#8, 0xE5#8, 0xAC#8, 0x73#8, 0xF3#8, 0xA7#8, 0x57#8 ]

/-- R81, R94: the log table of the field 0x11D, entries 128 to 191. -/
def qrIndexOf2 : List Byte :=
  [ 0x07#8, 0x70#8, 0xC0#8, 0xF7#8, 0x8C#8, 0x80#8, 0x63#8, 0x0D#8, 0x67#8, 0x4A#8, 0xDE#8, 0xED#8, 0x31#8, 0xC5#8, 0xFE#8, 0x18#8
  , 0xE3#8, 0xA5#8, 0x99#8, 0x77#8, 0x26#8, 0xB8#8, 0xB4#8, 0x7C#8, 0x11#8, 0x44#8, 0x92#8, 0xD9#8, 0x23#8, 0x20#8, 0x89#8, 0x2E#8
  , 0x37#8, 0x3F#8, 0xD1#8, 0x5B#8, 0x95#8, 0xBC#8, 0xCF#8, 0xCD#8, 0x90#8, 0x87#8, 0x97#8, 0xB2#8, 0xDC#8, 0xFC#8, 0xBE#8, 0x61#8
  , 0xF2#8, 0x56#8, 0xD3#8, 0xAB#8, 0x14#8, 0x2A#8, 0x5D#8, 0x9E#8, 0x84#8, 0x3C#8, 0x39#8, 0x53#8, 0x47#8, 0x6D#8, 0x41#8, 0xA2#8 ]

/-- R81, R94: the log table of the field 0x11D, entries 192 to 255. -/
def qrIndexOf3 : List Byte :=
  [ 0x1F#8, 0x2D#8, 0x43#8, 0xD8#8, 0xB7#8, 0x7B#8, 0xA4#8, 0x76#8, 0xC4#8, 0x17#8, 0x49#8, 0xEC#8, 0x7F#8, 0x0C#8, 0x6F#8, 0xF6#8
  , 0x6C#8, 0xA1#8, 0x3B#8, 0x52#8, 0x29#8, 0x9D#8, 0x55#8, 0xAA#8, 0xFB#8, 0x60#8, 0x86#8, 0xB1#8, 0xBB#8, 0xCC#8, 0x3E#8, 0x5A#8
  , 0xCB#8, 0x59#8, 0x5F#8, 0xB0#8, 0x9C#8, 0xA9#8, 0xA0#8, 0x51#8, 0x0B#8, 0xF5#8, 0x16#8, 0xEB#8, 0x7A#8, 0x75#8, 0x2C#8, 0xD7#8
  , 0x4F#8, 0xAE#8, 0xD5#8, 0xE9#8, 0xE6#8, 0xE7#8, 0xAD#8, 0xE8#8, 0x74#8, 0xD6#8, 0xF4#8, 0xEA#8, 0xA8#8, 0x50#8, 0x58#8, 0xAF#8 ]

/-- The tables of the fixed QR codec, constants of the core (R45, R94). -/
def qrTables : GfTables where
  alpha := qrAlphaTo0 ++ qrAlphaTo1 ++ qrAlphaTo2 ++ qrAlphaTo3
  index := qrIndexOf0 ++ qrIndexOf1 ++ qrIndexOf2 ++ qrIndexOf3

/-- The generator polynomial of the fixed QR codec for ECC parity bytes (R94): FCR = 0, PRIM = 1. -/
def qrGenerator (ecc : Nat) : List Byte := generator qrTables 0 1 ecc

/-- The parity of one block of the QR path (R94). -/
def qrParity (ecc : Nat) (block : List Byte) : List Byte :=
  parity qrTables.mul ecc (qrGenerator ecc) block

end Sys2Proof.Machine
end

