-- ==== Sys2Proof/Machine/Operands.lean ====
section
/-! DEFINITION. The operands a command reads at its issue (00_scope.md R12; 30_encoding.md R72) and the register map
as the host sees it: which offset is which register (10_state.md section 3), what a register reads as and what a
write stores (R16 to R39). -/

namespace Sys2Proof.Machine

/-- The version in CONFIG (R21). -/
def Regs.version (r : Regs) : Nat := r.config.version.toNat

/-- The level in CONFIG (R22). -/
def Regs.level (r : Regs) : Level := Level.ofField r.config.level

/-- The tables' rows of CONFIG.VERSION, none when it is illegal (R21). -/
def Regs.geometry (r : Regs) : Option Geometry := Machine.geometry r.version

/-- The block structure of a geometry at CONFIG.LEVEL (R92). -/
def Regs.blockSpec (r : Regs) (g : Geometry) : BlockSpec := g.blocks.at r.level

/-- The tuple in RS_POLY, RS_ROOT and RS_LEN (R29 to R31, R85). -/
def Regs.programmedTuple (r : Regs) : CodecTuple := ⟨r.rsPoly, r.rsFcr, r.rsPrim, r.rsNroots, r.rsPad⟩

/-- The block data length of a tuple, `K = 255 − NROOTS − PAD` (R31, R83). -/
def CodecTuple.k (t : CodecTuple) : Nat := 255 - t.nroots.toNat - t.pad.toNat

/-- The stored codec tables ALPHA_TO and INDEX_OF (R41). -/
def Memory.codecTables (m : Memory) : GfTables := ⟨m.readBuf .alphaTo 0 256, m.readBuf .indexOf 0 256⟩

/-- The stored generator polynomial GENPOLY (R41). -/
def Memory.codecGenerator (m : Memory) : List Byte := m.readBuf .genPoly 0 256

/-- The cells of the grid of a geometry (R43): GRID bytes 0 to w·w − 1. -/
def Memory.gridCells (m : Memory) (g : Geometry) : List Byte := m.readBuf .grid 0 g.modules

/-- The w×w table of a function of (x, y), row-major (R43). -/
def gridOf {α : Type} (w : Nat) (f : Nat → Nat → α) : List α :=
  (List.range (w * w)).map fun k => f (k % w) (k / w)

/-- The scoreboard entry of a mask (R38). -/
def Regs.scoreEntry (r : Regs) (m : BitVec 3) : ScoreEntry := r.score.get m.toFin

/-- The registers at single offsets (10_state.md section 3). -/
def registerOffsets : List (Nat × Reg) :=
  [ (0x000, .id), (0x004, .cmd), (0x008, .status), (0x00C, .config), (0x010, .dataLen), (0x014, .cwLen)
  , (0x018, .format), (0x01C, .sel), (0x020, .irqEn), (0x024, .rsPoly), (0x028, .rsRoot), (0x02C, .rsLen)
  , (0x030, .rsSrc), (0x034, .rsAct), (0x040, .geom), (0x044, .cap), (0x048, .blk), (0x04C, .verinfo) ]

/-- The penalty part register at `0x100 + 16·m + 4·part` (R38). -/
def scorePart (m : BitVec 3) : Nat → Reg
  | 0 => .scoreN1 m
  | 1 => .scoreN2 m
  | 2 => .scoreN3 m
  | _ => .scoreN4 m

/-- The register at an aligned offset below 0x200 (10_state.md section 3); an offset it does not list is reserved
(R16). -/
def regAt (a : Nat) : Reg :=
  if a < 0x100 then (registerOffsets.lookup a).getD .reserved
  else if a < 0x180 then scorePart (BitVec.ofNat 3 ((a - 0x100) / 16)) ((a - 0x100) % 16 / 4)
  else if a < 0x1A0 then .scoreTotal (BitVec.ofNat 3 ((a - 0x180) / 4))
  else if a < 0x1C0 then .scoreDark (BitVec.ofNat 3 ((a - 0x1A0) / 4))
  else .reserved

/-- RS_ACT (R33): `{8'b0, K, PAD, NROOTS}` of the captured tuple, 0 when none is. -/
def rsActWord : Option CodecTuple → Word
  | none => 0#32
  | some t => 0#8 ++ BitVec.ofNat 8 t.k ++ t.pad ++ t.nroots

/-- GEOM (R34): NALIGN at 15:12, REM at 11:8, WIDTH at 7:0; 0 for an illegal version. -/
def geomWord : Option Geometry → Word
  | none => 0#32
  | some g => 0#16 ++ BitVec.ofNat 4 g.align.length ++ BitVec.ofNat 4 g.rem ++ BitVec.ofNat 8 g.width

/-- CAP (R35): DATA at 27:16, TOTAL at 11:0; 0 for an illegal version. -/
def capWord (lvl : Level) : Option Geometry → Word
  | none => 0#32
  | some g => 0#4 ++ BitVec.ofNat 12 (g.blocks.at lvl).data ++ 0#4 ++ BitVec.ofNat 12 g.total

/-- BLK (R36): ECC at 31:24, DL1 at 23:16, B2 at 15:8, B1 at 7:0; 0 for an illegal version. -/
def blkWord (lvl : Level) : Option Geometry → Word
  | none => 0#32
  | some g =>
    let k := g.blocks.at lvl
    BitVec.ofNat 8 k.ecc ++ BitVec.ofNat 8 k.dl1 ++ BitVec.ofNat 8 k.b2 ++ BitVec.ofNat 8 k.b1

/-- VERINFO (R37): VWORD at 17:0; 0 for versions 1 to 6 and illegal ones. -/
def verinfoWord : Option Geometry → Word
  | none => 0#32
  | some g => 0#14 ++ g.vword

/-- What a register reads as (R16 to R39). -/
def readReg (s : State) : Reg → Word
  | .id => 0x51524331#32
  | .cmd => 0#32
  | .status => statusWord s.engine.isBusy s.regs.rsValid s.regs.status
  | .config => 0#8 ++ s.regs.config.maskEn ++ 0#6 ++ s.regs.config.level ++ 0#2 ++ s.regs.config.version
  | .dataLen => 0#20 ++ s.regs.dataLen
  | .cwLen => 0#20 ++ s.regs.cwLen
  | .format => 0#17 ++ s.regs.format
  | .sel => 0#23 ++ BitVec.ofBool s.regs.sel.valid ++ 0#5 ++ s.regs.sel.mask
  | .irqEn => 0#31 ++ BitVec.ofBool s.regs.irqEn
  | .rsPoly => 0#23 ++ s.regs.rsPoly
  | .rsRoot => 0#16 ++ s.regs.rsPrim ++ s.regs.rsFcr
  | .rsLen => 0#16 ++ s.regs.rsPad ++ s.regs.rsNroots
  | .rsSrc => 0#20 ++ s.regs.rsSrc
  | .rsAct => rsActWord s.regs.codec
  | .geom => geomWord s.regs.geometry
  | .cap => capWord s.regs.level s.regs.geometry
  | .blk => blkWord s.regs.level s.regs.geometry
  | .verinfo => verinfoWord s.regs.geometry
  | .scoreN1 m => (s.regs.scoreEntry m).n1
  | .scoreN2 m => (s.regs.scoreEntry m).n2
  | .scoreN3 m => (s.regs.scoreEntry m).n3
  | .scoreN4 m => (s.regs.scoreEntry m).n4
  | .scoreTotal m => (s.regs.scoreEntry m).total
  | .scoreDark m => (s.regs.scoreEntry m).dark
  | .reserved => 0#32

/-- CONFIG as a written word (R20). -/
def configOfWord (v : Word) : ConfigReg := ⟨v.extractLsb' 0 6, v.extractLsb' 8 2, v.extractLsb' 16 8⟩

/-- What a host write of `v` stores in a register (R16): RW fields take their bits, RO and reserved ones none, STATUS
is W1C. CMD stores nothing; its side effect is the issue of a command (R18), which the step makes. -/
def writeReg (v : Word) (s : State) : Reg → State
  | .id => s
  | .cmd => s
  | .status => acknowledge v s
  | .config => { s with regs := { s.regs with config := configOfWord v } }
  | .dataLen => { s with regs := { s.regs with dataLen := v.extractLsb' 0 12 } }
  | .cwLen => s
  | .format => s
  | .sel => s
  | .irqEn => { s with regs := { s.regs with irqEn := v.getLsbD 0 } }
  | .rsPoly => { s with regs := { s.regs with rsPoly := v.extractLsb' 0 9 } }
  | .rsRoot => { s with regs := { s.regs with rsFcr := v.extractLsb' 0 8, rsPrim := v.extractLsb' 8 8 } }
  | .rsLen => { s with regs := { s.regs with rsNroots := v.extractLsb' 0 8, rsPad := v.extractLsb' 8 8 } }
  | .rsSrc => { s with regs := { s.regs with rsSrc := v.extractLsb' 0 12 } }
  | .rsAct => s
  | .geom => s
  | .cap => s
  | .blk => s
  | .verinfo => s
  | .scoreN1 _ => s
  | .scoreN2 _ => s
  | .scoreN3 _ => s
  | .scoreN4 _ => s
  | .scoreTotal _ => s
  | .scoreDark _ => s
  | .reserved => s

end Sys2Proof.Machine
end

