-- ==== Sys2Proof/Machine/Codec.lean ====
section
/-! DEFINITION. The programmable Reed-Solomon codec: RS_INIT and RS_ENCODE (40_rs_codec.md R83, R85, R89). -/

namespace Sys2Proof.Machine

/-- A valid tuple (R83), the five checks in their order. -/
def CodecTuple.valid (t : CodecTuple) : Bool :=
  t.gfpoly.getLsbD 8 &&
  (decide (1 ≤ t.nroots.toNat) && decide (t.nroots.toNat ≤ 254)) &&
  decide (t.pad.toNat ≤ 254 - t.nroots.toNat) &&
  decide (1 ≤ t.prim.toNat) &&
  primitive t.gfpoly

/-- The generator polynomial of a tuple (R84). -/
def CodecTuple.generator (t : CodecTuple) : List Byte :=
  Machine.generator (gfTables t.gfpoly) t.fcr.toNat t.prim.toNat t.nroots.toNat

/-- GENPOLY of a tuple (R41): the generator's coefficients, then 0 up to entry 255. -/
def CodecTuple.genpolyTable (t : CodecTuple) : List Byte :=
  t.generator ++ List.replicate (255 - t.nroots.toNat) 0#8

/-- The successful half of RS_INIT (R85): the three tables written, the tuple captured (RS_VALID and RS_ACT are views
of it). -/
def captureCodec (t : CodecTuple) (s : State) : State :=
  { s with
    regs := { s.regs with codec := some t }
    mem := ((s.mem.storeBuf .alphaTo (antilogTable t.gfpoly)).storeBuf .indexOf (logTable t.gfpoly)).storeBuf
      .genPoly t.genpolyTable }

/-- The failing half of RS_INIT (R85): no tuple, RS_VALID and RS_ACT 0, the tables all 0. -/
def invalidateCodec (s : State) : State :=
  { s with
    regs := { s.regs with codec := none }
    mem := clearTables s.mem }

/-- RS_INIT after its issue (R85). -/
def rsInit (s : State) : State :=
  let t := s.regs.programmedTuple
  if t.valid then complete (captureCodec t s)
  else raise .invalidRSParameters (invalidateCodec s)

/-- RS_INIT (R85). -/
def execRsInit (s : State) : Host.Outcome State Fault Refusal := .next (rsInit (issue .rsInit 0 s))

/-- The parity bytes RS_ENCODE computes with the captured tuple and the stored tables (R89). -/
def capturedParity (t : CodecTuple) (s : State) : List Byte :=
  parity s.mem.codecTables.mul t.nroots.toNat s.mem.codecGenerator
    (s.mem.readBuf .dataBuf s.regs.rsSrc.toNat t.k)

/-- RS_ENCODE after its issue (R89): NotReady, then RangeError, then the parity into PAR_BUF. -/
def rsEncode (s : State) : State :=
  match s.regs.codec with
  | none => raise .notReady s
  | some t =>
    if s.regs.rsSrc.toNat + t.k > 4096 then raise .rangeError s
    else complete { s with mem := s.mem.storeBuf .parBuf (capturedParity t s) }

/-- RS_ENCODE (R89). -/
def execRsEncode (s : State) : Host.Outcome State Fault Refusal := .next (rsEncode (issue .rsEncode 0 s))

end Sys2Proof.Machine
end

