-- ==== Sys2Proof/Machine/Blocks.lean ====
section
/-! DEFINITION. Block splitting, interleaving and BLOCK_ENCODE (41_blocks.md R95 to R98). -/

namespace Sys2Proof.Machine

/-- The data blocks (R96): B1 blocks of DL1 bytes from 0, then B2 blocks of DL1 + 1 bytes from B1·DL1. -/
def splitBlocks (k : BlockSpec) (data : List Byte) : List (List Byte) :=
  ((List.range k.b1).map fun b => (data.drop (b * k.dl1)).take k.dl1) ++
  ((List.range k.b2).map fun b => (data.drop (k.b1 * k.dl1 + b * (k.dl1 + 1))).take (k.dl1 + 1))

/-- Round-robin over `cols` columns (R97): in each column the blocks in order, a block without that column skipped. -/
def interleave (cols : Nat) (blocks : List (List Byte)) : List Byte :=
  (List.range cols).flatMap fun c => blocks.filterMap fun b => b[c]?

/-- The codeword stream S (R97): the data interleave, then the parity interleave. -/
def codewordStream (k : BlockSpec) (data : List Byte) : List Byte :=
  let blocks := splitBlocks k data
  interleave (k.dl1 + 1) blocks ++ interleave k.ecc (blocks.map (qrParity k.ecc))

/-- DATA_LEN is the capacity of the version and level (R95). -/
def lengthMatches (g : Geometry) (s : State) : Bool := s.regs.dataLen.toNat == (s.regs.blockSpec g).data

/-- The body of BLOCK_ENCODE (R98): CW_BUF and CW_LEN. -/
def blockEncodeBody (g : Geometry) (s : State) : State :=
  let k := s.regs.blockSpec g
  { s with
    regs := { s.regs with cwLen := BitVec.ofNat 12 g.total }
    mem := s.mem.storeBuf .cwBuf (codewordStream k (s.mem.readBuf .dataBuf 0 k.data)) }

/-- BLOCK_ENCODE after its issue (R98). -/
def blockEncode (s : State) : State :=
  match s.regs.geometry with
  | none => raise .invalidVersion s
  | some g =>
    if lengthMatches g s then complete (blockEncodeBody g s)
    else raise .lengthMismatch s

/-- BLOCK_ENCODE (R98). -/
def execBlockEncode (s : State) : Host.Outcome State Fault Refusal := .next (blockEncode (issue .blockEncode 0 s))

end Sys2Proof.Machine
end

