-- ==== Sys2Proof/Machine/Frame.lean ====
section
/-! DEFINITION. The frame assembler: the skeleton and FRAME_INIT (42_frame.md R99 to R107), the zig-zag placement and
FRAME_PLACE (R108 to R112), with the cell codes of 30_encoding.md R73. -/

namespace Sys2Proof.Machine

/-- The code of a fixed cell, dark or light (R73). -/
def fixedCell (dark : Bool) : Byte := if dark then 0x81#8 else 0x80#8

/-- The code of a placed data cell (R73, R110). -/
def dataCell (dark : Bool) : Byte := if dark then 0x03#8 else 0x02#8

/-- The code of an unset cell (R73). -/
def unsetCell : Byte := 0x00#8

/-- Bit 7: the cell is fixed (R73). -/
def isFixed (c : Byte) : Bool := c.getLsbD 7

/-- Bit 0: the cell is dark (R73). -/
def isDark (c : Byte) : Bool := c.getLsbD 0

/-- `|a − b|` (R9). -/
def absDiff (a b : Nat) : Nat := (a - b) + (b - a)

/-- `max(|x − cx|, |y − cy|)` (R101, R102). -/
def ringDistance (x y cx cy : Nat) : Nat := max (absDiff x cx) (absDiff y cy)

/-- Drawing steps applied in order, a later one over an earlier one (R99); `none` sets nothing. -/
def overlay (steps : List (Option Bool)) : Option Bool := steps.foldl (fun under step => step.or under) none

/-- Timing patterns (R100): column 6 and row 6, dark at even index. -/
def timingStep (x y : Nat) : Option Bool :=
  if x = 6 then some (y % 2 == 0) else if y = 6 then some (x % 2 == 0) else none

/-- A finder with its separator (R101): dark at distance 0, 1 and 3, light at 2 and 4. -/
def finderStep (x y cx cy : Nat) : Option Bool :=
  let d := ringDistance x y cx cy
  if d ≤ 4 then some (d == 0 || d == 1 || d == 3) else none

/-- The three finder centres (R101). -/
def finderCentres (w : Nat) : List (Nat × Nat) := [(3, 3), (w - 4, 3), (3, w - 4)]

/-- An alignment pattern (R102): dark at distance 0 and 2, light at 1. -/
def alignmentStep (x y cx cy : Nat) : Option Bool :=
  let d := ringDistance x y cx cy
  if d ≤ 2 then some (d == 0 || d == 2) else none

/-- The three pairs of coordinate indexes that coincide with finders (R102). -/
def excludedPair (n i j : Nat) : Bool :=
  (i == 0 && j == 0) || (i == 0 && j == n - 1) || (i == n - 1 && j == 0)

/-- The centres of the alignment patterns (R102). -/
def alignmentCentres (c : List Nat) : List (Nat × Nat) :=
  (List.range c.length).flatMap fun i =>
    ((List.range c.length).filter fun j => !excludedPair c.length i j).map fun j => (c.getD i 0, c.getD j 0)

/-- The format area (R103). -/
def formatArea (w x y : Nat) : Bool :=
  (x == 8 && decide (y ≤ 5)) || (x == 8 && y == 7) || (x == 8 && y == 8) || (x == 7 && y == 8) ||
  (y == 8 && decide (x ≤ 5)) || (y == 8 && decide (w - 8 ≤ x) && decide (x ≤ w - 1)) ||
  (x == 8 && decide (w - 7 ≤ y) && decide (y ≤ w - 1))

/-- The format area is drawn light (R103). -/
def formatStep (w x y : Nat) : Option Bool := if formatArea w x y then some false else none

/-- The dark module (R104). -/
def darkModuleStep (w x y : Nat) : Option Bool := if x = 8 ∧ y = w - 8 then some true else none

/-- The version area (R106): bit i at `(w − 11 + i mod 3, i div 3)` and at the transposed cell, versions 7 and up. -/
def versionStep (g : Geometry) (x y : Nat) : Option Bool :=
  if 7 ≤ g.version then
    if g.width - 11 ≤ x ∧ x ≤ g.width - 9 ∧ y ≤ 5 then some (g.vword.getLsbD (3 * y + (x - (g.width - 11))))
    else if g.width - 11 ≤ y ∧ y ≤ g.width - 9 ∧ x ≤ 5 then some (g.vword.getLsbD (3 * x + (y - (g.width - 11))))
    else none
  else none

/-- The skeleton's drawing steps at a cell, in the order of R99. -/
def skeletonSteps (g : Geometry) (x y : Nat) : List (Option Bool) :=
  timingStep x y ::
    ((finderCentres g.width).map fun c => finderStep x y c.1 c.2) ++
    ((alignmentCentres g.align).map fun c => alignmentStep x y c.1 c.2) ++
    [formatStep g.width x y, darkModuleStep g.width x y, versionStep g x y]

/-- The skeleton's cell at (x, y) (R99): fixed where a step sets it, unset elsewhere. -/
def skeletonCell (g : Geometry) (x y : Nat) : Byte :=
  match overlay (skeletonSteps g x y) with
  | some dark => fixedCell dark
  | none => unsetCell

/-- The skeleton, row-major (R99, R107). -/
def skeleton (g : Geometry) : List Byte := gridOf g.width (skeletonCell g)

/-- SEL.VALID cleared (R27, R107, R112). -/
def clearSelValid (r : Regs) : Regs := { r with sel := { r.sel with valid := false } }

/-- The body of FRAME_INIT (R107). -/
def frameInitBody (g : Geometry) (s : State) : State :=
  { s with
    regs := clearSelValid s.regs
    mem := s.mem.storeBuf .grid (skeleton g) }

/-- FRAME_INIT after its issue (R107). -/
def frameInit (s : State) : State :=
  match s.regs.geometry with
  | none => raise .invalidVersion s
  | some g => complete (frameInitBody g s)

/-- FRAME_INIT (R107). -/
def execFrameInit (s : State) : Host.Outcome State Fault Refusal := .next (frameInit (issue .frameInit 0 s))

/-- The bits of a codeword, most significant first (R108). -/
def codewordBits (b : Byte) : List Bool := (List.range 8).map fun k => b.getLsbD (7 - k)

/-- The bit stream of the codewords (R108). -/
def bitStream (codewords : List Byte) : List Bool := codewords.flatMap codewordBits

/-- The right columns of the column pairs from `right` on (R109): down by 2, from 5 instead of 6. -/
def rightColumns : Nat → Nat → List Nat
  | 0, _ => []
  | fuel + 1, right =>
    if right = 0 then []
    else
      let r := if right = 6 then 5 else right
      r :: rightColumns fuel (r - 2)

/-- A column pair goes upward when `(right + 1) AND 2 = 0` (R109). -/
def pairUpward (right : Nat) : Bool := (right + 1) &&& 2 == 0

/-- The cells of one column pair in visiting order (R109). -/
def pairCells (w right : Nat) : List (Nat × Nat) :=
  (List.range w).flatMap fun t =>
    let y := if pairUpward right then w - 1 - t else t
    [(right, y), (right - 1, y)]

/-- The traversal of a w×w grid (R109). -/
def traversal (w : Nat) : List (Nat × Nat) := (rightColumns w (w - 1)).flatMap (pairCells w)

/-- The row-major index of a cell (R43). -/
def cellIndex (w : Nat) (c : Nat × Nat) : Nat := c.2 * w + c.1

/-- Placement (R110, R112): along the visited indexes, each non-fixed cell takes the next bit, and 0 when the stream
is used up; a fixed cell receives nothing. -/
def placeBits : List Nat → List Bool → List Byte → List Byte
  | [], _, cells => cells
  | k :: ks, bits, cells =>
    if isFixed (cells.getD k 0#8) then placeBits ks bits cells
    else placeBits ks bits.tail (cells.set k (dataCell (bits.headD false)))

/-- The raw frame FRAME_PLACE makes of the cells of a grid and a bit stream (R112). -/
def placedFrame (w : Nat) (bits : List Bool) (cells : List Byte) : List Byte :=
  placeBits ((traversal w).map (cellIndex w)) bits cells

/-- The body of FRAME_PLACE (R112): T codewords of CW_BUF and the grid as they stand. -/
def framePlaceBody (g : Geometry) (s : State) : State :=
  { s with
    regs := clearSelValid s.regs
    mem := s.mem.storeBuf .grid
      (placedFrame g.width (bitStream (s.mem.readBuf .cwBuf 0 g.total)) (s.mem.gridCells g)) }

/-- FRAME_PLACE after its issue (R112). -/
def framePlace (s : State) : State :=
  match s.regs.geometry with
  | none => raise .invalidVersion s
  | some g => complete (framePlaceBody g s)

/-- FRAME_PLACE (R112). -/
def execFramePlace (s : State) : Host.Outcome State Fault Refusal := .next (framePlace (issue .framePlace 0 s))

end Sys2Proof.Machine
end

