-- ==== Sys2Proof/Machine/Mask.lean ====
section
/-! DEFINITION. The mask evaluator: mask functions, format cells and candidates (43_mask.md R113 to R117), the four
penalty rules (R118 to R123), selection (R124, R125), MASK_APPLY and MASK_EVAL (R126, R127). -/

namespace Sys2Proof.Machine

/-- The mask functions (R113). -/
def maskBit (m : BitVec 3) (x y : Nat) : Bool :=
  match m.toNat with
  | 0 => (x + y) % 2 == 0
  | 1 => y % 2 == 0
  | 2 => x % 3 == 0
  | 3 => (x + y) % 3 == 0
  | 4 => (x / 3 + y / 2) % 2 == 0
  | 5 => (x * y) % 2 + (x * y) % 3 == 0
  | 6 => ((x * y) % 2 + (x * y) % 3) % 2 == 0
  | _ => ((x + y) % 2 + (x * y) % 3) % 2 == 0

/-- The format bit a cell holds (R115), both copies; none for a cell that is no format cell. -/
def formatBitIndex (w x y : Nat) : Option Nat :=
  if x = 8 then
    if y ≤ 5 then some y
    else if y = 7 then some 6
    else if y = 8 then some 7
    else if w - 7 ≤ y ∧ y ≤ w - 1 then some (y + 15 - w)
    else none
  else if y = 8 then
    if x ≤ 5 then some (14 - x)
    else if x = 7 then some 8
    else if w - 8 ≤ x ∧ x ≤ w - 1 then some (w - 1 - x)
    else none
  else none

/-- The candidate's module at (x, y) (R116): a format bit in a format cell; a fixed cell's colour; any other cell's
colour XOR the mask. -/
def candidateBit (w : Nat) (fmt : BitVec 15) (m : BitVec 3) (x y : Nat) (c : Byte) : Bool :=
  match formatBitIndex w x y with
  | some i => fmt.getLsbD i
  | none => if isFixed c then isDark c else isDark c ^^ maskBit m x y

/-- The candidate of mask m, row-major (R116). -/
def candidate (w : Nat) (lvl : Level) (m : BitVec 3) (cells : List Byte) : List Bool :=
  cells.zipIdx.map fun ck => candidateBit w (formatWord lvl m) m (ck.2 % w) (ck.2 / w) ck.1

/-- The rows of a candidate. -/
def rowsOf (w : Nat) (c : List Bool) : List (List Bool) :=
  (List.range w).map fun y => (c.drop (y * w)).take w

/-- The columns of a candidate. -/
def columnsOf (w : Nat) (c : List Bool) : List (List Bool) :=
  (List.range w).map fun x => (rowsOf w c).map fun row => row.getD x false

/-- The lines of a candidate: its rows and its columns (R118). -/
def linesOf (w : Nat) (c : List Bool) : List (List Bool) := rowsOf w c ++ columnsOf w c

/-- The run lengths from a run of `n` cells of colour `colour` on (R118). -/
def runsFrom (colour : Bool) (n : Nat) : List Bool → List Int
  | [] => [(n : Int)]
  | b :: bs => if b = colour then runsFrom colour (n + 1) bs else (n : Int) :: runsFrom b 1 bs

/-- The run-length list of a line (R118): −1 first when the line starts dark. -/
def runLengths : List Bool → List Int
  | [] => []
  | b :: bs => if b then -1 :: runsFrom b 1 bs else runsFrom b 1 bs

/-- Rule 1 for one line (R119). -/
def lineRule1 (rl : List Int) : Nat :=
  (rl.map fun n => if 5 ≤ n then (3 + (n - 5)).toNat else 0).sum

/-- The light margin of rule 3 before or after a finder-like group at index i with scale f (R121): the run before is
the placeholder or at least 4·f, or the group ends the line, or the run after is at least 4·f. -/
def lightMargin (rl : List Int) (i : Nat) (f : Int) : Bool :=
  (decide (rl.getD (i - 3) 0 < 0) || decide (4 * f ≤ rl.getD (i - 3) 0)) ||
  (decide (rl.length ≤ i + 3) || decide (4 * f ≤ rl.getD (i + 3) 0))

/-- Whether a finder-like group is centred at index i of a run-length list (R121): an odd index (a dark run), runs
1:1:3:1:1 at a scale f, and a light margin on one side. -/
def finderLike (rl : List Int) (i : Nat) : Bool :=
  i % 2 == 1 && decide (3 ≤ i) && decide (i + 2 < rl.length) && rl.getD i 0 % 3 == 0 &&
    (let f := rl.getD i 0 / 3
     rl.getD (i - 2) 0 == f && rl.getD (i - 1) 0 == f && rl.getD (i + 1) 0 == f && rl.getD (i + 2) 0 == f &&
       lightMargin rl i f)

/-- Rule 3 for one line (R121): 40 per group, once each. -/
def lineRule3 (rl : List Int) : Nat := 40 * (List.range rl.length).countP (finderLike rl)

/-- The module (x, y) of a candidate given by its rows. -/
def moduleAt (rows : List (List Bool)) (x y : Nat) : Bool := (rows.getD y []).getD x false

/-- A 2×2 square of one colour with its lower right corner at (x, y) (R120). -/
def uniformSquare (rows : List (List Bool)) (x y : Nat) : Bool :=
  moduleAt rows x y == moduleAt rows (x - 1) y && moduleAt rows x y == moduleAt rows x (y - 1) &&
    moduleAt rows x y == moduleAt rows (x - 1) (y - 1)

/-- Rule 2 (R120): 3 per 2×2 square of one colour, overlaps counted. -/
def rule2 (w : Nat) (rows : List (List Bool)) : Nat :=
  3 * ((List.range (w - 1)).map fun y => (List.range (w - 1)).countP fun x => uniformSquare rows (x + 1) (y + 1)).sum

/-- The number of dark modules (R122). -/
def darkCount (c : List Bool) : Nat := c.countP (fun b => b)

/-- Rule 4 (R122): 10 per full 5 per cent of deviation from 50 per cent dark, the percentage rounded down. -/
def rule4 (w dark : Nat) : Nat := absDiff (100 * dark / (w * w)) 50 / 5 * 10

/-- The scoreboard entry of a candidate (R119 to R123). -/
def penalties (w : Nat) (c : List Bool) : ScoreEntry :=
  let rls := (linesOf w c).map runLengths
  let n1 := (rls.map lineRule1).sum
  let n2 := rule2 w (rowsOf w c)
  let n3 := (rls.map lineRule3).sum
  let dark := darkCount c
  let n4 := rule4 w dark
  ⟨BitVec.ofNat 32 n1, BitVec.ofNat 32 n2, BitVec.ofNat 32 n3, BitVec.ofNat 32 n4,
    BitVec.ofNat 32 (n1 + n2 + n3 + n4), BitVec.ofNat 32 dark⟩

/-- The scoreboard whose entry for each mask is given. -/
def scoreboard (f : BitVec 3 → ScoreEntry) : Vector ScoreEntry 8 := #v[f 0, f 1, f 2, f 3, f 4, f 5, f 6, f 7]

/-- The mask ids in ascending order (R124). -/
def maskIds : List (BitVec 3) := [0, 1, 2, 3, 4, 5, 6, 7]

/-- Whether a mask is a candidate (R23, R124). -/
def isCandidate (en : BitVec 8) (m : BitVec 3) : Bool := en.getLsbD m.toNat

/-- One step of the selection (R125): a strictly smaller total replaces the best. -/
def better (total : BitVec 3 → Nat) (best : Option (BitVec 3)) (m : BitVec 3) : Option (BitVec 3) :=
  match best with
  | none => some m
  | some b => if total m < total b then some m else some b

/-- The selected mask (R125). -/
def selectMask (en : BitVec 8) (total : BitVec 3 → Nat) : Option (BitVec 3) :=
  (maskIds.filter (isCandidate en)).foldl (better total) none

/-- A module as an OUT byte (R73). -/
def outByte (dark : Bool) : Byte := if dark then 1#8 else 0#8

/-- The result of a mask command (R126, R127) on the cells of GRID: scoreboard, OUT, FORMAT and SEL for the selected
mask. -/
def writeResult (g : Geometry) (m : BitVec 3) (board : Vector ScoreEntry 8) (cells : List Byte) (s : State) : State :=
  { s with
    regs := { s.regs with
      score := board
      format := formatWord s.regs.level m
      sel := ⟨m, true⟩ }
    mem := s.mem.storeBuf .out ((candidate g.width s.regs.level m cells).map outByte) }

/-- The score of mask m for a raw frame (R117, R119 to R123). -/
def scoreOf (g : Geometry) (lvl : Level) (cells : List Byte) (m : BitVec 3) : ScoreEntry :=
  penalties g.width (candidate g.width lvl m cells)

/-- The scoreboard of MASK_APPLY (R126): mask m evaluated, the others not. -/
def applyBoard (g : Geometry) (lvl : Level) (cells : List Byte) (m : BitVec 3) : Vector ScoreEntry 8 :=
  scoreboard fun k => if k = m then scoreOf g lvl cells m else .notEvaluated

/-- The scoreboard of MASK_EVAL (R127): the masks of MASK_EN evaluated, the others not. -/
def evalBoard (g : Geometry) (lvl : Level) (cells : List Byte) (en : BitVec 8) : Vector ScoreEntry 8 :=
  scoreboard fun k => if isCandidate en k then scoreOf g lvl cells k else .notEvaluated

/-- The totals the selection compares (R125). -/
def boardTotal (board : Vector ScoreEntry 8) (m : BitVec 3) : Nat := (board.get m.toFin).total.toNat

/-- The mask MASK_EVAL selects from its scoreboard (R125); MASK_EN is not 0 when it is asked. -/
def selectedMask (en : BitVec 8) (board : Vector ScoreEntry 8) : BitVec 3 := (selectMask en (boardTotal board)).getD 0

/-- The body of MASK_EVAL (R127). -/
def maskEvalBody (g : Geometry) (s : State) : State :=
  let cells := s.mem.gridCells g
  let board := evalBoard g s.regs.level cells s.regs.config.maskEn
  writeResult g (selectedMask s.regs.config.maskEn board) board cells s

/-- The body of MASK_APPLY (R126). -/
def maskApplyBody (g : Geometry) (m : BitVec 3) (s : State) : State :=
  let cells := s.mem.gridCells g
  writeResult g m (applyBoard g s.regs.level cells m) cells s

/-- MASK_APPLY after its issue (R126). -/
def maskApply (m : BitVec 3) (s : State) : State :=
  match s.regs.geometry with
  | none => raise .invalidVersion s
  | some g => complete (maskApplyBody g m s)

/-- MASK_APPLY (R126). -/
def execMaskApply (m : BitVec 3) (s : State) : Host.Outcome State Fault Refusal :=
  .next (maskApply m (issue (.maskApply m) 0 s))

/-- MASK_EVAL after its issue (R127): InvalidVersion, then NoMaskCandidate. -/
def maskEval (s : State) : State :=
  match s.regs.geometry with
  | none => raise .invalidVersion s
  | some g =>
    if s.regs.config.maskEn = 0#8 then raise .noMaskCandidate s
    else complete (maskEvalBody g s)

/-- MASK_EVAL (R127). -/
def execMaskEval (s : State) : Host.Outcome State Fault Refusal := .next (maskEval (issue .maskEval 0 s))

end Sys2Proof.Machine
end

