-- ==== Sys2Proof/Machine/Control.lean ====
section
/-! DEFINITION. The control commands: NOP, ENCODE, the reserved opcodes and SOFT_RESET (44_control.md R128 to R131). -/

namespace Sys2Proof.Machine

/-- NOP (R128): issue and completion only. -/
def execNop (s : State) : Host.Outcome State Fault Refusal := .next (complete (issue .nop 0 s))

/-- The body of ENCODE (R129): the four bodies in sequence. -/
def encodeBody (g : Geometry) (s : State) : State :=
  maskEvalBody g (framePlaceBody g (frameInitBody g (blockEncodeBody g s)))

/-- ENCODE after its issue (R129): all three checks first. -/
def encodeSymbol (s : State) : State :=
  match s.regs.geometry with
  | none => raise .invalidVersion s
  | some g =>
    if !lengthMatches g s then raise .lengthMismatch s
    else if s.regs.config.maskEn = 0#8 then raise .noMaskCandidate s
    else complete (encodeBody g s)

/-- ENCODE (R129). -/
def execEncodeSymbol (s : State) : Host.Outcome State Fault Refusal := .next (encodeSymbol (issue .encodeSymbol 0 s))

/-- A reserved opcode (R130): IllegalCommand and no other effect. -/
def reservedCommand (i : Instr) (s : State) : State := raise .illegalCommand (issue i 0 s)

/-- Reserved opcode 0x9 (R130). -/
def execReserved9 (s : State) : Host.Outcome State Fault Refusal := .next (reservedCommand .reserved9 s)

/-- Reserved opcode 0xA (R130). -/
def execReservedA (s : State) : Host.Outcome State Fault Refusal := .next (reservedCommand .reservedA s)

/-- Reserved opcode 0xB (R130). -/
def execReservedB (s : State) : Host.Outcome State Fault Refusal := .next (reservedCommand .reservedB s)

/-- Reserved opcode 0xC (R130). -/
def execReservedC (s : State) : Host.Outcome State Fault Refusal := .next (reservedCommand .reservedC s)

/-- Reserved opcode 0xD (R130). -/
def execReservedD (s : State) : Host.Outcome State Fault Refusal := .next (reservedCommand .reservedD s)

/-- Reserved opcode 0xE (R130). -/
def execReservedE (s : State) : Host.Outcome State Fault Refusal := .next (reservedCommand .reservedE s)

/-- Every register but STATUS at its reset value, no tuple captured, OVR cleared (R131); the rest of STATUS is the
issue's and the completion's. -/
def softResetRegs (r : Regs) : Regs := { Regs.reset with status := { r.status with ovr := false } }

/-- The body of SOFT_RESET (R131): the registers, and the codec tables 0; the other memories are kept. -/
def softResetBody (s : State) : State :=
  { s with regs := softResetRegs s.regs, mem := clearTables s.mem }

/-- SOFT_RESET (R131). -/
def execSoftReset (s : State) : Host.Outcome State Fault Refusal :=
  .next (complete (softResetBody (issue .softReset 0 s)))

end Sys2Proof.Machine
end

