-- ==== Sys2Proof/Machine/Bus.lean ====
section
/-! DEFINITION. The outside: host transactions while IDLE, while BUSY and while `rst_n` is low (20_memory.md R51 to
R62; 60_exceptions.md R139), the resets (70_reset_and_hazards.md R150, R151), and how the inputs are taken. -/

namespace Sys2Proof.Machine

/-- What a transaction addresses. -/
inductive Target where
  | register (r : Reg)
  | memory (r : Region)
  deriving DecidableEq, Repr

/-- The target of a legal access, none where the access is a `BusError`: a register access that is not an aligned
word (R55), an unmapped byte (R54), a misaligned memory access (R56). -/
def target (addr : Addr) (size : Size) : Option Target :=
  if addr.toNat < 0x200 then
    if size = .b4 ∧ addr.toNat % 4 = 0 then some (.register (regAt addr.toNat)) else none
  else
    match regionOf addr.toNat with
    | none => none
    | some r => if addr.toNat % size.bytes = 0 then some (.memory r) else none

/-- An answer given to the host. -/
def respond (a : Response) (s : State) : State := { s with responses := a :: s.responses }

/-- The data of a memory read (R57). -/
def readMem (m : Memory) (addr : Addr) (size : Size) : Word := composeLE (m.readBlock addr.toNat size.bytes)

/-- A read while IDLE, or while `rst_n` is low, when the registers hold their reset values (R61, R150; log entry 9). -/
def readIdle (addr : Addr) (size : Size) (s : State) : State :=
  match target addr size with
  | none => respond .busError s
  | some (.register r) => respond (.data (readReg s r)) s
  | some (.memory _) => respond (.data (readMem s.mem addr size)) s

/-- A write of a memory while IDLE (R57, R59). -/
def writeMem (r : Region) (addr : Addr) (size : Size) (data : Word) (s : State) : State :=
  if regionWritable r then { s with mem := s.mem.store addr.toNat (splitLE size.bytes data) } else s

/-- A write while IDLE (R16, R57, R59). A write of CMD issues its command in the step; here it answers `ok` (R18). -/
def writeIdle (addr : Addr) (size : Size) (data : Word) (s : State) : State :=
  match target addr size with
  | none => respond .busError s
  | some (.register r) => respond .ok (writeReg data s r)
  | some (.memory r) => respond .ok (writeMem r addr size data s)

/-- Whether a bus address is one of the first `len` bytes of a region. -/
def inBuf (r : Region) (len a : Nat) : Bool := decide (regionBase r ≤ a) && decide (a < regionBase r + len)

/-- A byte of the grid that FRAME_PLACE writes: a cell of the grid that is not fixed (R112), column 6 apart, which
the traversal never visits (R109; log entry 18). -/
def placedByte (g : Geometry) (s : State) (a : Nat) : Bool :=
  inBuf .grid g.modules a && (a - regionBase .grid) % g.width != 6 && !isFixed (s.mem.read a)

/-- The memory bytes a running command may write, as its rule lists them (R62, R72, R150; log entry 6). -/
def mayWriteByte (i : Instr) (s : State) (a : Nat) : Bool :=
  match i, s.regs.geometry with
  | .rsInit, _ => isTableAddr a
  | .rsEncode, _ =>
    match s.regs.codec with
    | some t => inBuf .parBuf t.nroots.toNat a
    | none => false
  | .blockEncode, some g => inBuf .cwBuf g.total a
  | .frameInit, some g => inBuf .grid g.modules a
  | .framePlace, some g => placedByte g s a
  | .maskApply _, some g => inBuf .out g.modules a
  | .maskEval, some g => inBuf .out g.modules a
  | .encodeSymbol, some g => inBuf .cwBuf g.total a || inBuf .grid g.modules a || inBuf .out g.modules a
  | .softReset, _ => isTableAddr a
  | _, _ => false

/-- Whether a register is of the scoreboard (R38, R39). -/
def isScoreReg : Reg → Bool
  | .scoreN1 _ => true
  | .scoreN2 _ => true
  | .scoreN3 _ => true
  | .scoreN4 _ => true
  | .scoreTotal _ => true
  | .scoreDark _ => true
  | _ => false

/-- The registers a running command may write (R62, R72), STATUS among them for every command. -/
def mayWriteReg (i : Instr) (r : Reg) : Bool :=
  r == .status ||
  match i with
  | .rsInit => r == .rsAct
  | .blockEncode => r == .cwLen
  | .frameInit => r == .sel
  | .framePlace => r == .sel
  | .maskApply _ => r == .format || r == .sel || isScoreReg r
  | .maskEval => r == .format || r == .sel || isScoreReg r
  | .encodeSymbol => r == .cwLen || r == .format || r == .sel || isScoreReg r
  | .softReset => !(r == .id || r == .cmd || r == .reserved)
  | _ => false

/-- A register read during BUSY (R62): STATUS reads with BUSY = 1 and is otherwise unspecified, as is every register
the command may write; the others read as stored. DESIGN CHOICE (log entry 5): "unspecified" is read as all 32 bits of
the word, the reserved bits too, which R16 and R25 to R27 say read 0. -/
def readRegBusy (i : Instr) (draw : Word) (s : State) (r : Reg) : Word :=
  if r = .status then draw ||| 1#32
  else if mayWriteReg i r then draw
  else readReg s r

/-- The bytes of a memory read during BUSY (R62): unspecified where the command may write, else as stored. -/
def readBytesBusy (i : Instr) (draw : Word) (s : State) (addr : Addr) (size : Size) : List Byte :=
  (List.range size.bytes).map fun k =>
    if mayWriteByte i s (addr.toNat + k) then draw.extractLsb' (8 * k) 8 else s.mem.read (addr.toNat + k)

/-- One free value drawn. -/
def countDraw (s : State) : State := { s with draws := s.draws + 1 }

/-- A read during BUSY (R62): each takes a fresh draw. -/
def readBusy (i : Instr) (addr : Addr) (size : Size) (s : State) : State :=
  match target addr size with
  | none => respond .busError s
  | some (.register r) => respond (.data (readRegBusy i (Config.busyRead s.draws) s r)) (countDraw s)
  | some (.memory _) =>
    respond (.data (composeLE (readBytesBusy i (Config.busyRead s.draws) s addr size))) (countDraw s)

/-- OVR set by a dropped write (R19, R139). -/
def setOverrun (s : State) : State :=
  { s with regs := { s.regs with status := { s.regs.status with ovr := true } } }

/-- A write during BUSY (R139): `ok`, dropped, OVR set; an illegal access is a `BusError` and sets nothing. -/
def writeBusy (addr : Addr) (size : Size) (s : State) : State :=
  match target addr size with
  | none => respond .busError s
  | some _ => respond .ok (setOverrun s)

/-- A write while `rst_n` is low (R150): `ok`, ignored; an illegal access is a `BusError` (log entry 8). -/
def writeInReset (addr : Addr) (size : Size) (s : State) : State :=
  match target addr size with
  | none => respond .busError s
  | some _ => respond .ok s

/-- A transaction while the engine is IDLE. -/
def txnIdle (t : Txn) (s : State) : State :=
  match t with
  | .read addr size => readIdle addr size s
  | .write addr size data => if s.rstN then writeIdle addr size data s else writeInReset addr size s

/-- A transaction while the engine is BUSY. -/
def txnBusy (i : Instr) (t : Txn) (s : State) : State :=
  match t with
  | .read addr size => readBusy i addr size s
  | .write addr size _ => writeBusy addr size s

/-- The memory after the running command, if any, is abandoned (R150): every byte it may write is unspecified, that
is, reads as UNINIT again (R151; log entry 4). -/
def abandonedMem (s : State) : Memory :=
  match s.engine with
  | .idle => s.mem
  | .busy i _ => s.mem.forget (mayWriteByte i s)

/-- `rst_n` goes, or stays, low (R150): registers at their reset values, tables 0, IDLE, a running command abandoned. -/
def assertReset (s : State) : State :=
  { s with
    regs := Regs.reset
    engine := .idle
    mem := clearTables (abandonedMem s)
    rstN := false }

/-- A level on the `rst_n` pin (R150). -/
def rstPin (high : Bool) (s : State) : State := if high then { s with rstN := true } else assertReset s

/-- Power-on (R150): the state after reset; the pin level, the outside, and what was answered and drawn go on
(log entry 16). -/
def powerOn (s : State) : State :=
  { State.reset with
    rstN := s.rstN
    inputs := s.inputs
    responses := s.responses
    latencies := s.latencies
    draws := s.draws }

/-- An input taken while the engine is IDLE. -/
def inputIdle (n : Input) (s : State) : State :=
  match n with
  | .txn t => txnIdle t s
  | .rstPin high => rstPin high s
  | .powerOn => powerOn s
  | .quiet => s

/-- An input taken while the engine is BUSY with `i`. -/
def inputBusy (i : Instr) (n : Input) (s : State) : State :=
  match n with
  | .txn t => txnBusy i t s
  | .rstPin high => rstPin high s
  | .powerOn => powerOn s
  | .quiet => s

/-- A step while IDLE that issues no command: the next input, or nothing when none waits (R149). -/
def whileIdle (s : State) : State :=
  match s.inputs with
  | [] => s
  | n :: rest => inputIdle n { s with inputs := rest }

/-- A step while BUSY that does not complete: time passes, and the next input, if any, is taken (R62, R139, R156). -/
def whileBusy (i : Instr) (left : Nat) (s : State) : State :=
  match s.inputs with
  | [] => { s with engine := .busy i left }
  | n :: rest => inputBusy i n { s with inputs := rest, engine := .busy i left }

/-- The command word of the next input when it issues a command: a legal write of CMD with `rst_n` high (R18, R137,
R150). -/
def issuedWord (s : State) : Option Word :=
  match s.inputs with
  | .txn (.write addr size data) :: _ =>
    if s.rstN ∧ target addr size = some (.register .cmd) then some data else none
  | _ => none

/-- The latency of the next command (R156): the next chosen one, else a free value. -/
def nextLatency (s : State) : Nat :=
  match s.latencies with
  | n :: _ => n
  | [] => Config.latency s.draws

/-- The CMD write taken: answered `ok`, its latency used up. -/
def acceptCommand (s : State) : State :=
  { s with
    inputs := s.inputs.tail
    responses := .ok :: s.responses
    latencies := s.latencies.tail
    draws := s.draws + 1 }

end Sys2Proof.Machine
end

