-- ==== Sys2Proof/Machine/Dispatch.lean ====
section
/-! DEFINITION. The meaning of every command: one arm per constructor of Instr. -/

namespace Sys2Proof.Machine

def exec (i : Instr) (s : State) : Host.Outcome State Fault Refusal :=
  match i with
  | .nop => Sys2Proof.Machine.execNop s
  | .rsInit => Sys2Proof.Machine.execRsInit s
  | .rsEncode => Sys2Proof.Machine.execRsEncode s
  | .blockEncode => Sys2Proof.Machine.execBlockEncode s
  | .frameInit => Sys2Proof.Machine.execFrameInit s
  | .framePlace => Sys2Proof.Machine.execFramePlace s
  | .maskApply m => Sys2Proof.Machine.execMaskApply m s
  | .maskEval => Sys2Proof.Machine.execMaskEval s
  | .encodeSymbol => Sys2Proof.Machine.execEncodeSymbol s
  | .reserved9 => Sys2Proof.Machine.execReserved9 s
  | .reservedA => Sys2Proof.Machine.execReservedA s
  | .reservedB => Sys2Proof.Machine.execReservedB s
  | .reservedC => Sys2Proof.Machine.execReservedC s
  | .reservedD => Sys2Proof.Machine.execReservedD s
  | .reservedE => Sys2Proof.Machine.execReservedE s
  | .softReset => Sys2Proof.Machine.execSoftReset s

end Sys2Proof.Machine
end

