-- ==== Sys2Proof/Machine/Step.lean ====
section
/-! DEFINITION. One step of the core (10_state.md R15, R46; 60_exceptions.md R137 to R139; 70_reset_and_hazards.md
R156), and the placing of a command where the next step takes it. -/

namespace Sys2Proof.Machine

/-- One step. IDLE: an input that writes CMD issues the decoded command, which runs and completes in this step when
its latency is 0 and stays BUSY for that many steps otherwise; any other input is taken; without one the core holds
its state. BUSY: while steps are left an input may land; then the command runs and completes. -/
def step (s : State) : Host.Outcome State Fault Refusal :=
  match s.engine with
  | .busy i 0 => exec i s
  | .busy i (left + 1) => .next (whileBusy i left s)
  | .idle =>
    match issuedWord s with
    | none => .next (whileIdle s)
    | some c =>
      match nextLatency s with
      | 0 => exec (decode c) (acceptCommand s)
      | left + 1 => .next (issue (decode c) (left + 1) (acceptCommand s))

/-- The state whose very next step runs the command word `w` (log entry 11): the engine is IDLE, `rst_n` is high, the
next input writes the word to CMD, and its latency is 0. -/
def State.withFetchWord (s : State) (nbits w : Nat) : State :=
  { s with
    engine := .idle
    rstN := true
    inputs := .txn (.write 0x004#17 .b4 (BitVec.ofNat 32 (w % 2 ^ nbits))) :: s.inputs
    latencies := 0 :: s.latencies }

end Sys2Proof.Machine
end

