-- ==== Sys2Proof/Safety.lean ====
section
/-! DEFINITION. What claims about the core are stated in: the invariants of a safe state, what a command is to report,
and when two states agree. -/

namespace Sys2Proof.Machine

/-- The memory is in its canonical form. -/
def MemoryCanonical (s : State) : Prop := Memory.wf s.mem

/-- STATUS is coherent (R19, R134, R137): ERRCODE is 0 exactly when ERR is, and at most 7; while BUSY, DONE, ERR and
ERRCODE are 0 and LASTOP is the running command's opcode. -/
def StatusCoherent (s : State) : Prop :=
  (s.regs.status.err = false ↔ s.regs.status.errcode = 0#4) ∧ s.regs.status.errcode.toNat ≤ 7 ∧
  ∀ i left, s.engine = .busy i left →
    s.regs.status.done = false ∧ s.regs.status.err = false ∧ s.regs.status.lastop = i.opcode

/-- While `rst_n` is low (R150) the engine is IDLE, every register holds its reset value and the codec tables are 0. -/
def ResetHeld (s : State) : Prop :=
  s.rstN = false →
    s.engine = .idle ∧ s.regs = Regs.reset ∧ ∀ a, isTableAddr a = true → s.mem.read a = 0

/-- The codec tables are those of the captured tuple, which is valid, and all 0 when none is captured (R41, R44). -/
def CodecCoherent (s : State) : Prop :=
  match s.regs.codec with
  | none => ∀ a, isTableAddr a = true → s.mem.read a = 0
  | some t =>
    t.valid = true ∧
    ∀ k < 256,
      s.mem.read (regionBase .alphaTo + k) = (antilogTable t.gfpoly).getD k 0 ∧
      s.mem.read (regionBase .indexOf + k) = (logTable t.gfpoly).getD k 0 ∧
      s.mem.read (regionBase .genPoly + k) = t.genpolyTable.getD k 0

/-- A scoreboard entry is "not evaluated" or the exact sum of its parts, below 2^22 (R38, R39, R123). -/
def ScoreEntry.coherent (e : ScoreEntry) : Prop :=
  e = ScoreEntry.notEvaluated ∨
  (e.total.toNat = e.n1.toNat + e.n2.toNat + e.n3.toNat + e.n4.toNat ∧ e.total.toNat < 2 ^ 22 ∧
    e.dark.toNat ≤ 31329)

/-- Every scoreboard entry is coherent. -/
def ScoreboardCoherent (s : State) : Prop := ∀ m : BitVec 3, (s.regs.scoreEntry m).coherent

/-- Every byte ever written to OUT is 0 or 1 (R43, R73). -/
def OutBinary (s : State) : Prop := ∀ c ∈ s.mem, inRegion .out c.1 = true → c.2 = 0#8 ∨ c.2 = 1#8

/-- A safe state of the core. -/
def Safe (s : State) : Prop :=
  MemoryCanonical s ∧ StatusCoherent s ∧ ResetHeld s ∧ CodecCoherent s ∧ ScoreboardCoherent s ∧ OutBinary s

/-- The error a command is to complete with, the first that applies in the order of R136; none when it completes
without error. -/
def reportedError (i : Instr) (s : State) : Option CmdError :=
  match i with
  | .nop => none
  | .softReset => none
  | .rsInit => if s.regs.programmedTuple.valid then none else some .invalidRSParameters
  | .rsEncode =>
    match s.regs.codec with
    | none => some .notReady
    | some t => if 4096 < s.regs.rsSrc.toNat + t.k then some .rangeError else none
  | .blockEncode =>
    match s.regs.geometry with
    | none => some .invalidVersion
    | some g => if s.regs.dataLen.toNat = (s.regs.blockSpec g).data then none else some .lengthMismatch
  | .frameInit => if s.regs.geometry.isSome then none else some .invalidVersion
  | .framePlace => if s.regs.geometry.isSome then none else some .invalidVersion
  | .maskApply _ => if s.regs.geometry.isSome then none else some .invalidVersion
  | .maskEval =>
    if s.regs.geometry.isSome then if s.regs.config.maskEn = 0#8 then some .noMaskCandidate else none
    else some .invalidVersion
  | .encodeSymbol =>
    match s.regs.geometry with
    | none => some .invalidVersion
    | some g =>
      if s.regs.dataLen.toNat = (s.regs.blockSpec g).data then
        if s.regs.config.maskEn = 0#8 then some .noMaskCandidate else none
      else some .lengthMismatch
  | .reserved9 => some .illegalCommand
  | .reservedA => some .illegalCommand
  | .reservedB => some .illegalCommand
  | .reservedC => some .illegalCommand
  | .reservedD => some .illegalCommand
  | .reservedE => some .illegalCommand

/-- STATUS after a command with opcode `op` that reports `e`, OVR as given (R137, R138). -/
def statusAfter (op : BitVec 4) (ovr : Bool) : Option CmdError → Status
  | none => ⟨true, false, ovr, 0#4, op⟩
  | some e => ⟨true, true, ovr, e.code, op⟩

/-- The pins and the model's own fields agree. -/
def SamePorts (s t : State) : Prop :=
  t.rstN = s.rstN ∧ t.inputs = s.inputs ∧ t.responses = s.responses ∧ t.latencies = s.latencies ∧ t.draws = s.draws

/-- Every byte of memory outside `[base, base + len)` reads the same. -/
def SameBytesOutside (base len : Nat) (s t : State) : Prop :=
  ∀ a, a < base ∨ base + len ≤ a → t.mem.read a = s.mem.read a

/-- Every byte of memory reads the same. -/
def SameBytes (s t : State) : Prop := ∀ a, t.mem.read a = s.mem.read a

/-- The unmapped ranges of the address map (R53). -/
def Unmapped (a : Nat) : Prop :=
  (0x00200 ≤ a ∧ a ≤ 0x00FFF) ∨ (0x03400 ≤ a ∧ a ≤ 0x07FFF) ∨ (0x18000 ≤ a ∧ a ≤ 0x1FFFF)

/-- An access the map gives a meaning (R55, R56): an aligned word in the register range, or an access of a memory
aligned to its size. -/
def LegalAccess (a : Nat) (size : Size) : Prop :=
  (a < 0x200 ∧ size = .b4 ∧ a % 4 = 0) ∨ ((regionOf a).isSome = true ∧ a % size.bytes = 0)

/-- The offset of block b in DATA_BUF (R96). -/
def blockStart (k : BlockSpec) (b : Nat) : Nat :=
  if b < k.b1 then b * k.dl1 else k.b1 * k.dl1 + (b - k.b1) * (k.dl1 + 1)

/-- The length of block b (R96). -/
def blockLength (k : BlockSpec) (b : Nat) : Nat := if b < k.b1 then k.dl1 else k.dl1 + 1

/-- The block that byte k of the data interleave comes from (R97): `r + (B1 if c = DL1 else 0)`. -/
def interleavedBlock (k : BlockSpec) (n : Nat) : Nat :=
  n % k.blocks + if n / k.blocks = k.dl1 then k.b1 else 0

/-- The first copy of format bit i (R115). -/
def formatFirstCopy (i : Nat) : Nat × Nat :=
  if i ≤ 5 then (8, i) else if i = 6 then (8, 7) else if i = 7 then (8, 8) else if i = 8 then (7, 8) else (14 - i, 8)

/-- The second copy of format bit i (R115). -/
def formatSecondCopy (w i : Nat) : Nat × Nat := if i ≤ 7 then (w - 1 - i, 8) else (8, w - 15 + i)

/-- The candidate of mask m for the cells of GRID, given by the rule of each module (R116). -/
def candidateMatrix (s : State) (g : Geometry) (m : BitVec 3) : List Bool :=
  gridOf g.width fun x y =>
    candidateBit g.width (formatWord s.regs.level m) m x y (s.mem.read (0x08000 + y * g.width + x))

/-- What a read of an IDLE core answers at the offsets of 10_state.md section 3, the scoreboard apart: constants, stored
fields between bits that read 0 (R16 to R32), RS_ACT of the captured tuple (R33), and the registers computed from CONFIG
(R34 to R37). -/
def idleRegisterWords (s : State) : List (Nat × Word) :=
  [ (0x000, 0x51524331#32), (0x004, 0#32)
  , (0x008, 0#15 ++ BitVec.ofBool s.regs.codec.isSome ++ s.regs.status.lastop ++ s.regs.status.errcode ++ 0#4 ++
      BitVec.ofBool s.regs.status.ovr ++ BitVec.ofBool s.regs.status.err ++ BitVec.ofBool s.regs.status.done ++ 0#1)
  , (0x00C, 0#8 ++ s.regs.config.maskEn ++ 0#6 ++ s.regs.config.level ++ 0#2 ++ s.regs.config.version)
  , (0x010, 0#20 ++ s.regs.dataLen), (0x014, 0#20 ++ s.regs.cwLen), (0x018, 0#17 ++ s.regs.format)
  , (0x01C, 0#23 ++ BitVec.ofBool s.regs.sel.valid ++ 0#5 ++ s.regs.sel.mask)
  , (0x020, 0#31 ++ BitVec.ofBool s.regs.irqEn), (0x024, 0#23 ++ s.regs.rsPoly)
  , (0x028, 0#16 ++ s.regs.rsPrim ++ s.regs.rsFcr), (0x02C, 0#16 ++ s.regs.rsPad ++ s.regs.rsNroots)
  , (0x030, 0#20 ++ s.regs.rsSrc)
  , (0x034, s.regs.codec.elim 0#32 fun c =>
      0#8 ++ BitVec.ofNat 8 (255 - c.nroots.toNat - c.pad.toNat) ++ c.pad ++ c.nroots)
  , (0x040, readReg s .geom), (0x044, readReg s .cap), (0x048, readReg s .blk), (0x04C, readReg s .verinfo) ]

/-- The scoreboard registers of mask m (R38, R39): offset and the word it reads as. -/
def scoreRegisterWords (s : State) (m : BitVec 3) : List (Nat × Word) :=
  let e := s.regs.score.get m.toFin
  [ (0x100 + 16 * m.toNat, e.n1), (0x104 + 16 * m.toNat, e.n2), (0x108 + 16 * m.toNat, e.n3)
  , (0x10C + 16 * m.toNat, e.n4), (0x180 + 4 * m.toNat, e.total), (0x1A0 + 4 * m.toNat, e.dark) ]

/-- The read/write registers: offset, register, and the bits of its fields (R20, R24, R28 to R32). -/
def readWriteRegisters : List (Addr × Reg × Word) :=
  [ (0x00C#17, .config, 0x00FF033F#32), (0x010#17, .dataLen, 0xFFF#32), (0x020#17, .irqEn, 1#32)
  , (0x024#17, .rsPoly, 0x1FF#32), (0x028#17, .rsRoot, 0xFFFF#32), (0x02C#17, .rsLen, 0xFFFF#32)
  , (0x030#17, .rsSrc, 0xFFF#32) ]

/-- Mask m inverts the cell (x, y): the table of R113, row by row. -/
def Inverted (m : BitVec 3) (x y : Nat) : Prop :=
  (m = 0 ∧ (x + y) % 2 = 0) ∨ (m = 1 ∧ y % 2 = 0) ∨ (m = 2 ∧ x % 3 = 0) ∨ (m = 3 ∧ (x + y) % 3 = 0) ∨
  (m = 4 ∧ (x / 3 + y / 2) % 2 = 0) ∨ (m = 5 ∧ x * y % 2 + x * y % 3 = 0) ∨
  (m = 6 ∧ (x * y % 2 + x * y % 3) % 2 = 0) ∨ (m = 7 ∧ ((x + y) % 2 + x * y % 3) % 2 = 0)

/-- C is the candidate of mask m for the given cells (R115, R116): the format bits in their two copies, elsewhere a
fixed cell's colour, or the colour of a cell that is not fixed, changed exactly where the mask inverts. -/
def IsCandidate (w : Nat) (fmt : BitVec 15) (m : BitVec 3) (cell : Nat → Nat → Byte) (C : Nat → Nat → Bool) : Prop :=
  (∀ i < 15, C (formatFirstCopy i).1 (formatFirstCopy i).2 = fmt.getLsbD i ∧
    C (formatSecondCopy w i).1 (formatSecondCopy w i).2 = fmt.getLsbD i) ∧
  ∀ x y, x < w → y < w → (∀ i < 15, (x, y) ≠ formatFirstCopy i ∧ (x, y) ≠ formatSecondCopy w i) →
    ((cell x y).getLsbD 7 = true → C x y = (cell x y).getLsbD 0) ∧
    ((cell x y).getLsbD 7 = false → (C x y ≠ (cell x y).getLsbD 0 ↔ Inverted m x y))

/-- The lines of a matrix (R118): row 0 to w − 1, then column 0 to w − 1. -/
def matrixLines (w : Nat) (C : Nat → Nat → Bool) : List (List Bool) :=
  ((List.range w).map fun y => (List.range w).map fun x => C x y) ++
    ((List.range w).map fun x => (List.range w).map fun y => C x y)

/-- Index i of the run-length list RL carries a finder-like group (R121): the pseudocode's conditions, one by one. -/
abbrev FinderGroup (RL : List Int) (i : Nat) : Prop :=
  i % 2 = 1 ∧ 3 ≤ i ∧ i + 2 < RL.length ∧ RL.getD i 0 % 3 = 0 ∧
  RL.getD (i - 2) 0 = RL.getD i 0 / 3 ∧ RL.getD (i - 1) 0 = RL.getD i 0 / 3 ∧
  RL.getD (i + 1) 0 = RL.getD i 0 / 3 ∧ RL.getD (i + 2) 0 = RL.getD i 0 / 3 ∧
  (RL.getD (i - 3) 0 < 0 ∨ 4 * (RL.getD i 0 / 3) ≤ RL.getD (i - 3) 0 ∨
    RL.length ≤ i + 3 ∨ 4 * (RL.getD i 0 / 3) ≤ RL.getD (i + 3) 0)

/-- A scoreboard entry holds the penalties of the matrix C, each by its own rule: R119, R120, R121, R122 and the sum of
R123. -/
def PenaltiesFollowTheRules (w : Nat) (C : Nat → Nat → Bool) (e : ScoreEntry) : Prop :=
  (e.n1.toNat : Int) = ((matrixLines w C).map fun line =>
    ((runLengths line).map fun n => if 5 ≤ n then 3 + (n - 5) else 0).sum).sum ∧
  e.n2.toNat = 3 * ((Finset.Icc 1 (w - 1) ×ˢ Finset.Icc 1 (w - 1)).filter fun p =>
    C p.1 p.2 = C (p.1 - 1) p.2 ∧ C p.1 p.2 = C p.1 (p.2 - 1) ∧ C p.1 p.2 = C (p.1 - 1) (p.2 - 1)).card ∧
  e.n3.toNat = ((matrixLines w C).map fun line =>
    40 * ((Finset.range (runLengths line).length).filter (FinderGroup (runLengths line))).card).sum ∧
  e.dark.toNat = ((Finset.range w ×ˢ Finset.range w).filter fun p => C p.1 p.2 = true).card ∧
  e.n4.toNat = (((100 * e.dark.toNat / (w * w) : Nat) : Int) - 50).natAbs / 5 * 10 ∧
  e.total.toNat = e.n1.toNat + e.n2.toNat + e.n3.toNat + e.n4.toNat

/-- `s_(i+1)` from `s_i` (R81), on numbers: `((s << 1) XOR (P if s[7] = 1 else 0)) AND 0xFF`. -/
def fieldStep (P : BitVec 9) (s : Nat) : Nat := ((2 * s) ^^^ (if 128 ≤ s then P.toNat else 0)) % 256

/-- `s_i` of R81. -/
def fieldPower (P : BitVec 9) (i : Nat) : Nat := (fieldStep P)^[i] 1

/-- The five conditions of R83, in their order; the fifth is R81's: `s_0` to `s_254` are non-zero and pairwise distinct,
and `s_255 = 1`. -/
def ValidTuple (t : CodecTuple) : Prop :=
  t.gfpoly.getLsbD 8 = true ∧
  (1 ≤ t.nroots.toNat ∧ t.nroots.toNat ≤ 254) ∧
  t.pad.toNat + t.nroots.toNat ≤ 254 ∧
  1 ≤ t.prim.toNat ∧
  (∀ i < 255, fieldPower t.gfpoly i ≠ 0) ∧
  (∀ i j, i < j → j < 255 → fieldPower t.gfpoly i ≠ fieldPower t.gfpoly j) ∧
  fieldPower t.gfpoly 255 = 1

/-- The k-th cell the traversal visits (R109), in closed form: the pairs of columns from the right, column 6 skipped,
the first pair upward and the direction alternating, in each row the right column first. -/
def visitedCell (w k : Nat) : Nat × Nat :=
  let pair := k / (2 * w)
  let t := k % (2 * w) / 2
  let right := if 6 < w - 1 - 2 * pair then w - 1 - 2 * pair else w - 2 - 2 * pair
  (right - k % 2, if pair % 2 = 0 then w - 1 - t else t)

/-- The line a run-length list describes (R118), the first run of the given colour; −1 is a run of no cells. -/
def expandRuns : Bool → List Int → List Bool
  | _, [] => []
  | colour, n :: ns => List.replicate n.toNat colour ++ expandRuns (!colour) ns

/-- The state without OVR: what a host that only counts results can see. -/
def Regs.withoutOvr (r : Regs) : Regs := { r with status := { r.status with ovr := false } }

/-- The reset pin and power-on leave a stretch of inputs alone. -/
def noResets (inputs : List Input) : Bool :=
  inputs.all fun n => match n with
    | .txn _ => true
    | .quiet => true
    | .rstPin _ => false
    | .powerOn => false

end Sys2Proof.Machine
end

