-- ==== Sys2Proof/Certificates/Slice0/Obligations.lean ====
section
/-! DEFINITION. What the model claims of the core, for the provers: one `def Obligations.<Name> : Prop` each. -/

open Sys2Proof Sys2Proof.Machine

/-! ### Reset, encoding and the step -/

/-- R17, R19 to R39, R50: what every register reads right after power-on; the engine is IDLE and `irq` is low. -/
def Obligations.ResetRegistersReadTheirResetValues : Prop :=
  ([Reg.id, .cmd, .status, .config, .dataLen, .cwLen, .format, .sel, .irqEn].map (readReg State.reset) =
    [0x51524331#32, 0, 0, 0x00FF0001#32, 0, 0, 0, 0, 0]) ∧
  ([Reg.rsPoly, .rsRoot, .rsLen, .rsSrc, .rsAct, .geom, .cap, .blk, .verinfo].map (readReg State.reset) =
    [0x11D#32, 0x100#32, 0, 0, 0, 0x15#32, 0x0013001A#32, 0x07130001#32, 0]) ∧
  (∀ m : BitVec 3, [Reg.scoreN1 m, .scoreN2 m, .scoreN3 m, .scoreN4 m, .scoreTotal m, .scoreDark m].map
    (readReg State.reset) = [0, 0, 0, 0, 0xFFFFFFFF#32, 0]) ∧
  State.reset.engine = .idle ∧ State.reset.irq = false

/-- The invariants hold in the reset state; its ports and memory are the model's choice (log entries 3, 14). -/
def Obligations.ResetStateIsSafe : Prop := Safe State.reset

/-- R71: OP alone selects the command, with MASK for OP = 0x6; the other bits never change the meaning. -/
def Obligations.OpcodeFieldAloneSelectsTheCommand : Prop :=
  (∀ c : Word, (decode c).opcode = c.extractLsb' 0 4) ∧
  ∀ c d : Word, c.extractLsb' 0 4 = d.extractLsb' 0 4 →
    (c.extractLsb' 0 4 = 0x6#4 → c.extractLsb' 8 3 = d.extractLsb' 8 3) → decode c = decode d

/-- R70, R78, R79 and 95_test_vectors.md: words written out from the encoding, and the commands they stand for. -/
def Obligations.WrittenOutWordsDecode : Prop :=
  decode 0x00000000#32 = .nop ∧ decode 0xFFFFFFF0#32 = .nop ∧ decode 0x00000001#32 = .rsInit ∧
  decode 0x00000003#32 = .blockEncode ∧ decode 0x00000005#32 = .framePlace ∧
  decode 0x00000606#32 = .maskApply 6 ∧ decode 0x000007F6#32 = .maskApply 7 ∧
  decode 0x0000000A#32 = .reservedA ∧ decode 0x0000000F#32 = .softReset

/-- R69 to R71: decoding inverts encoding for every command and operand, as a word, as bytes in bus order and in the
opcode table's numbering; and encoding a decoded word clears exactly its ignored bits. -/
def Obligations.DecodeAndEncodeAgree : Prop :=
  (∀ i : Instr, i.wellFormed = true →
    decode (encode i) = i ∧ decodeBytes (encodeBytes i) = .ok i ∧ decodeTableWord 32 (encode i).toNat = some i) ∧
  ∀ c : Word, encode (decode c) = c &&& (if c.extractLsb' 0 4 = 0x6#4 then 0x0000070F#32 else 0x0000000F#32)

/-- R18, R137, R156: the step that takes a write of CMD runs the decoded command when its latency is 0 and leaves it
BUSY otherwise; a BUSY command with no step left runs. The latency is chosen in the state or free (log entry 1). -/
def Obligations.StepRunsTheDecodedCommand : Prop :=
  (∀ (s : State) (c : Word) (rest : List Input), s.engine = .idle → s.rstN = true →
    s.inputs = .txn (.write 0x004#17 .b4 c) :: rest →
    let a : State := { s with
      inputs := rest, responses := .ok :: s.responses, latencies := s.latencies.tail, draws := s.draws + 1 }
    (nextLatency s = 0 → step s = exec (decode c) a) ∧
    (∀ n, nextLatency s = n + 1 → step s = .next (issue (decode c) (n + 1) a))) ∧
  (∀ (s : State) (ls : List Nat) (n : Nat), s.latencies = n :: ls → nextLatency s = n) ∧
  (∀ s : State, s.latencies = [] → nextLatency s = Config.latency s.draws) ∧
  ∀ (s : State) (i : Instr), s.engine = .busy i 0 → step s = exec i s

/-- R137: an issued command is BUSY with DONE, ERR and ERRCODE 0 and LASTOP its opcode field; OVR, every other
register and the memory are as before. -/
def Obligations.IssueSetsBusyAndClearsStatus : Prop :=
  ∀ (s : State) (c : Word) (rest : List Input) (n : Nat), s.engine = .idle → s.rstN = true →
    s.inputs = .txn (.write 0x004#17 .b4 c) :: rest → nextLatency s = n + 1 →
    ∃ t, step s = .next t ∧ t.engine = .busy (decode c) (n + 1) ∧
      readReg t .status = statusWord true s.regs.rsValid ⟨false, false, s.regs.status.ovr, 0#4, c.extractLsb' 0 4⟩ ∧
      t.regs = { s.regs with status := ⟨false, false, s.regs.status.ovr, 0#4, c.extractLsb' 0 4⟩ } ∧
      t.mem = s.mem ∧ t.irq = false

/-! ### Completion and errors -/

/-- R136, R137, R138: every command completes, IDLE, with the first error of its check order or none; ERRCODE is that
error's code, LASTOP the opcode, DONE 1; OVR is kept, but for SOFT_RESET, which clears it. -/
def Obligations.EveryCommandReportsItsFirstError : Prop :=
  ∀ (i : Instr) (s : State), ∃ t, exec i s = .next t ∧ t.engine = .idle ∧
    t.regs.status = statusAfter i.opcode (if i = .softReset then false else s.regs.status.ovr) (reportedError i s)

/-- R138: a command that raises an error, RS_INIT apart, has written nothing but STATUS. -/
def Obligations.FailingCommandWritesOnlyStatus : Prop :=
  ∀ (i : Instr) (s : State) (e : CmdError), reportedError i s = some e → i ≠ .rsInit →
    exec i s = .next { s with
      engine := .idle
      regs := { s.regs with status := statusAfter i.opcode s.regs.status.ovr (some e) } }

/-- R95: BLOCK_ENCODE and ENCODE raise LengthMismatch (code 3) when DATA_LEN is not the capacity, too short or too
long. -/
def Obligations.WrongDataLengthRaisesLengthMismatch : Prop :=
  ∀ (s : State) (g : Geometry), s.regs.geometry = some g → s.regs.dataLen.toNat ≠ (s.regs.blockSpec g).data →
    (exec .blockEncode s = .next { s with
      engine := .idle, regs := { s.regs with status := ⟨true, true, s.regs.status.ovr, 3#4, 0x3#4⟩ } }) ∧
    (exec .encodeSymbol s = .next { s with
      engine := .idle, regs := { s.regs with status := ⟨true, true, s.regs.status.ovr, 3#4, 0x8#4⟩ } })

/-- R40, R72: a command changes no byte of memory outside the list of its rule. The list is `mayWriteByte`, which is the model's
reading: the whole list whatever error follows, none for an illegal version (log entry 6), and for FRAME_PLACE no byte
of column 6, fixed or not (log entry 18, R109 and R112 against the prose of R110). -/
def Obligations.CommandsWriteNoUnlistedByte : Prop :=
  ∀ (i : Instr) (s : State), ∃ t, exec i s = .next t ∧
    ∀ a, mayWriteByte i s a = false → t.mem.read a = s.mem.read a

/-- R14, R72: a command changes what no register reads that its rule does not list (the list is `mayWriteReg`, log
entry 6). -/
def Obligations.CommandsWriteNoUnlistedRegister : Prop :=
  ∀ (i : Instr) (s : State), ∃ t, exec i s = .next t ∧
    ∀ r, mayWriteReg i r = false → readReg t r = readReg s r

/-! ### Control commands -/

/-- R128: NOP changes nothing but the issue and completion fields, so that it ends with DONE and no error, and raises
`irq` when IE = 1. -/
def Obligations.NopChangesOnlyStatus : Prop :=
  ∀ s : State, ∃ t, exec .nop s = .next t ∧
    t = { s with
      engine := .idle, regs := { s.regs with status := ⟨true, false, s.regs.status.ovr, 0#4, 0x0#4⟩ } } ∧
    readReg t .status = statusWord false s.regs.rsValid ⟨true, false, s.regs.status.ovr, 0#4, 0x0#4⟩ ∧
    t.irq = s.regs.irqEn

/-- R130: a reserved opcode completes with IllegalCommand (code 1), changes nothing but STATUS and raises `irq` when
IE = 1. -/
def Obligations.ReservedOpcodesRaiseIllegalCommand : Prop :=
  ∀ (s : State) (i : Instr),
    i = .reserved9 ∨ i = .reservedA ∨ i = .reservedB ∨ i = .reservedC ∨ i = .reservedD ∨ i = .reservedE →
    ∃ t, exec i s = .next t ∧
      t = { s with
        engine := .idle, regs := { s.regs with status := ⟨true, true, s.regs.status.ovr, 1#4, i.opcode⟩ } } ∧
      t.irq = s.regs.irqEn

/-- R131: SOFT_RESET gives every register but ID and STATUS its reset value, clears the codec, its tables, the
scoreboard and OVR, keeps the other memories, and leaves STATUS = 0x0000F002 and `irq` low. -/
def Obligations.SoftResetRestoresTheResetRegisters : Prop :=
  ∀ s : State, ∃ t, exec .softReset s = .next t ∧
    t.regs = { Regs.reset with status := ⟨true, false, false, 0#4, 0xF#4⟩ } ∧
    readReg t .status = 0x0000F002#32 ∧ readReg t .config = 0x00FF0001#32 ∧ readReg t .rsAct = 0 ∧
    t.irq = false ∧ t.engine = .idle ∧ SamePorts s t ∧
    ∀ a, t.mem.read a = if isTableAddr a then 0 else s.mem.read a

/-! ### The programmable codec -/

/-- R81, R84, R85: RS_INIT on a valid tuple writes the antilog and log tables and the generator polynomial, captures
the tuple and shows it in RS_ACT and RS_VALID; nothing else changes. -/
def Obligations.RsInitBuildsTablesAndGenerator : Prop :=
  ∀ (s : State) (c : CodecTuple), c = ⟨s.regs.rsPoly, s.regs.rsFcr, s.regs.rsPrim, s.regs.rsNroots, s.regs.rsPad⟩ →
    c.valid = true →
    ∃ t, exec .rsInit s = .next t ∧
      (∀ k < 255, t.mem.read (0x03100 + k) = (timesX c.gfpoly)^[k] 1#8) ∧ t.mem.read (0x03100 + 255) = 0 ∧
      (∀ k < 255, t.mem.read (0x03200 + ((timesX c.gfpoly)^[k] 1#8).toNat) = BitVec.ofNat 8 k) ∧
      t.mem.read 0x03200 = 255#8 ∧
      (∀ k < 256, t.mem.read (0x03300 + k) = c.generator.getD k 0) ∧
      t.mem.read (0x03300 + c.nroots.toNat) = 1#8 ∧
      readReg t .rsAct = 0#8 ++ BitVec.ofNat 8 (255 - c.nroots.toNat - c.pad.toNat) ++ c.pad ++ c.nroots ∧
      SameBytesOutside 0x03100 768 s t ∧
      t.regs = { s.regs with status := statusAfter 0x1#4 s.regs.status.ovr none, codec := some c } ∧
      t.engine = .idle ∧ SamePorts s t

/-- R81, R83, R85, R138: a tuple is valid exactly when the five conditions hold, written out in `ValidTuple`; RS_INIT on
a tuple that fails one raises InvalidRSParameters and leaves no tuple, RS_ACT 0 and all tables 0; nothing else
changes. -/
def Obligations.FailingRsInitInvalidatesTheCodec : Prop :=
  (∀ c : CodecTuple, c.valid = true ↔ ValidTuple c) ∧
  ∀ s : State, ¬ ValidTuple ⟨s.regs.rsPoly, s.regs.rsFcr, s.regs.rsPrim, s.regs.rsNroots, s.regs.rsPad⟩ →
    ∃ t, exec .rsInit s = .next t ∧
      t.regs = { s.regs with
        status := statusAfter 0x1#4 s.regs.status.ovr (some .invalidRSParameters), codec := none } ∧
      readReg t .rsAct = 0 ∧ (∀ k < 768, t.mem.read (0x03100 + k) = 0) ∧
      SameBytesOutside 0x03100 768 s t ∧ t.engine = .idle ∧ SamePorts s t

/-- R84: the generator polynomial is built root by root, `g[k] <- g[k−1] XOR g[k]·α^r` with
`r = ((FCR + i)·PRIM) mod 255`; it is monic of degree n. R82: the product and the power it uses are those of the log
and antilog tables. -/
def Obligations.GeneratorIsTheProductOfItsRoots : Prop :=
  ∀ (t : GfTables) (fcr prim n : Nat),
    generator t fcr prim 0 = [1#8] ∧
    (∀ k, (generator t fcr prim (n + 1)).getD k 0 =
      (if k = 0 then 0 else (generator t fcr prim n).getD (k - 1) 0) ^^^
        t.mul ((generator t fcr prim n).getD k 0) (t.pow (((fcr + n) * prim) % 255))) ∧
    (generator t fcr prim n).getD n 0 = 1#8 ∧ (generator t fcr prim n).length = n + 1 ∧
    (∀ a b : Byte, t.mul a b = if a = 0#8 ∨ b = 0#8 then 0#8
      else t.alpha.getD (((t.index.getD a.toNat 0#8).toNat + (t.index.getD b.toNat 0#8).toNat) % 255) 0#8) ∧
    ∀ e, t.pow e = t.alpha.getD (e % 255) 0#8

/-- R86, R87: the shift register gives exactly the remainder of the polynomial division, whatever the multiplication. -/
def Obligations.ShiftRegisterIsPolynomialDivision : Prop :=
  ∀ (mul : Byte → Byte → Byte) (n : Nat) (g data : List Byte), n ≤ g.length →
    parity mul n g data = divisionRemainder mul n g data

/-- R86, R89: RS_ENCODE writes the remainder of the polynomial division of its K data bytes, computed with the stored
tables and generator, to PAR_BUF[0 .. n−1]; nothing else changes but STATUS. -/
def Obligations.RsEncodeWritesTheDivisionRemainder : Prop :=
  ∀ (s : State) (c : CodecTuple), s.regs.codec = some c →
    s.regs.rsSrc.toNat + (255 - c.nroots.toNat - c.pad.toNat) ≤ 4096 →
    ∃ t, exec .rsEncode s = .next t ∧
      (∀ j < c.nroots.toNat, t.mem.read (0x03000 + j) =
        (divisionRemainder s.mem.codecTables.mul c.nroots.toNat s.mem.codecGenerator
          ((List.range (255 - c.nroots.toNat - c.pad.toNat)).map fun k =>
            s.mem.read (0x01000 + s.regs.rsSrc.toNat + k))).getD j 0) ∧
      SameBytesOutside 0x03000 c.nroots.toNat s t ∧
      t.regs = { s.regs with status := statusAfter 0x2#4 s.regs.status.ovr none } ∧
      t.engine = .idle ∧ SamePorts s t

/-! ### Tables and BLOCK_ENCODE -/

/-- R93: the identities of the block table, for all 160 rows. -/
def Obligations.BlockTableIdentities : Prop :=
  ∀ v ∈ List.range' 1 40, ∀ lvl ∈ [Level.L, .M, .Q, .H],
    match geometry v with
    | none => False
    | some g =>
      let k := g.blocks.at lvl
      k.data + k.blocks * k.ecc = g.total ∧ k.b2 = g.total % k.blocks ∧ k.b1 = k.blocks - k.b2 ∧
        k.dl1 = g.total / k.blocks - k.ecc ∧ k.b2 < k.blocks ∧ k.dl1 + k.ecc ≤ 255

/-- R105, R114: the version words of the table (versions 7 to 40) and the format words (every level and mask) are the
BCH words the rules compute. -/
def Obligations.InformationWordsAreBchWords : Prop :=
  (∀ v ∈ List.range' 7 34, (geometry v).map (fun g => g.vword) = some (versionWordComputed v)) ∧
  ∀ lvl ∈ [Level.L, .M, .Q, .H], ∀ m : BitVec 3, formatWord lvl m = formatWordComputed lvl m

/-- R22, R34 to R37, R90 to R92: for versions 1 to 40 the computed registers hold the fields of the version's row and of
its blocks at the level (0, 1, 2, 3 = L, M, Q, H), with the width, the alignment count, the block identities and the
version word the rules compute; for an illegal version they are 0. -/
def Obligations.ComputedRegistersFollowConfig : Prop :=
  ∀ s : State,
    let v := s.regs.config.version.toNat
    let geom := readReg s .geom
    let cap := readReg s .cap
    let blk := readReg s .blk
    let b1 := (blk.extractLsb' 0 8).toNat
    let b2 := (blk.extractLsb' 8 8).toNat
    let dl1 := (blk.extractLsb' 16 8).toNat
    let ecc := (blk.extractLsb' 24 8).toNat
    ([Level.L, .M, .Q, .H][s.regs.config.level.toNat]? = some s.regs.level) ∧
    (1 ≤ v ∧ v ≤ 40 → ∃ g k, geometry v = some g ∧
      [g.blocks.l, g.blocks.m, g.blocks.q, g.blocks.h][s.regs.config.level.toNat]? = some k ∧ s.regs.blockSpec g = k ∧
      (geom.extractLsb' 0 8).toNat = g.width ∧ (geom.extractLsb' 8 4).toNat = g.rem ∧
      (geom.extractLsb' 12 4).toNat = g.align.length ∧
      (cap.extractLsb' 0 12).toNat = g.total ∧ (cap.extractLsb' 16 12).toNat = k.b1 * k.dl1 + k.b2 * (k.dl1 + 1) ∧
      cap.extractLsb' 12 4 = 0 ∧ cap.extractLsb' 28 4 = 0 ∧
      b1 = k.b1 ∧ b2 = k.b2 ∧ dl1 = k.dl1 ∧ ecc = k.ecc ∧ readReg s .verinfo = g.vword.setWidth 32) ∧
    (1 ≤ v ∧ v ≤ 40 →
      (geom.extractLsb' 0 8).toNat = 21 + 4 * (v - 1) ∧
      (geom.extractLsb' 12 4).toNat = (if v = 1 then 0 else v / 7 + 2) ∧ geom.extractLsb' 16 16 = 0 ∧
      (cap.extractLsb' 16 12).toNat = b1 * dl1 + b2 * (dl1 + 1) ∧
      (cap.extractLsb' 0 12).toNat = (cap.extractLsb' 16 12).toNat + (b1 + b2) * ecc ∧
      readReg s .verinfo = if 7 ≤ v then (versionWordComputed v).setWidth 32 else 0) ∧
    (v = 0 ∨ 40 < v → geom = 0 ∧ cap = 0 ∧ blk = 0 ∧ readReg s .verinfo = 0)

/-- R81, R86, R94: the constant tables of the QR codec are those of the field 0x11D, entry by entry. R94, R96, R97, R98:
BLOCK_ENCODE writes the closed form of the interleave to CW_BUF, data then parity (the remainder of the division by the
generator with FCR 0, PRIM 1 over that field), and the total to CW_LEN; nothing else changes but STATUS. -/
def Obligations.BlockEncodeWritesTheInterleave : Prop :=
  qrTables = gfTables 0x11D#9 ∧
  (qrTables.alpha.length = 256 ∧ qrTables.index.length = 256 ∧
    qrTables.alpha.getD 255 0 = 0#8 ∧ qrTables.index.getD 0 0 = 255#8 ∧
    ∀ k < 255, qrTables.alpha.getD k 0 = BitVec.ofNat 8 (fieldPower 0x11D#9 k) ∧
      qrTables.index.getD (fieldPower 0x11D#9 k) 0 = BitVec.ofNat 8 k) ∧
  ∀ (s : State) (g : Geometry), s.regs.geometry = some g → s.regs.dataLen.toNat = (s.regs.blockSpec g).data →
    let k := s.regs.blockSpec g
    ∃ t, exec .blockEncode s = .next t ∧
      (∀ n < k.data, t.mem.read (0x02000 + n) =
        s.mem.read (0x01000 + blockStart k (interleavedBlock k n) + n / k.blocks)) ∧
      (∀ n < k.blocks * k.ecc, t.mem.read (0x02000 + k.data + n) =
        (divisionRemainder (gfTables 0x11D#9).mul k.ecc (generator (gfTables 0x11D#9) 0 1 k.ecc) ((List.range (blockLength k (n % k.blocks))).map fun j =>
          s.mem.read (0x01000 + blockStart k (n % k.blocks) + j))).getD (n / k.blocks) 0) ∧
      SameBytesOutside 0x02000 g.total s t ∧
      t.regs = { s.regs with
        status := statusAfter 0x3#4 s.regs.status.ovr none, cwLen := BitVec.ofNat 12 g.total } ∧
      t.engine = .idle ∧ SamePorts s t

/-- R45: the result of BLOCK_ENCODE and of ENCODE does not depend on the programmable codec, its tables or what captured
it, and neither changes them: the bytes, the error, and without an error CW_LEN and what ENCODE writes to FORMAT, SEL
and the scoreboard, are the same. -/
def Obligations.BlockEncodeIgnoresTheProgrammableCodec : Prop :=
  ∀ (s u : State) (i : Instr), i = .blockEncode ∨ i = .encodeSymbol →
    u.regs.config = s.regs.config → u.regs.dataLen = s.regs.dataLen →
    (∀ a, isTableAddr a = false → u.mem.read a = s.mem.read a) →
    ∃ t w, exec i s = .next t ∧ exec i u = .next w ∧
      (∀ a, isTableAddr a = false → w.mem.read a = t.mem.read a) ∧
      w.regs.status.err = t.regs.status.err ∧ w.regs.status.errcode = t.regs.status.errcode ∧
      (t.regs.status.err = false → w.regs.cwLen = t.regs.cwLen) ∧
      (t.regs.status.err = false → i = .encodeSymbol →
        w.regs.format = t.regs.format ∧ w.regs.sel = t.regs.sel ∧ w.regs.score = t.regs.score) ∧
      w.regs.codec = u.regs.codec ∧ (∀ a, isTableAddr a = true → w.mem.read a = u.mem.read a)

/-! ### The frame assembler -/

/-- R99, R107: FRAME_INIT writes the skeleton of the version to GRID, row-major, and clears SEL.VALID; nothing else
changes but STATUS. -/
def Obligations.FrameInitWritesTheSkeleton : Prop :=
  ∀ (s : State) (g : Geometry), s.regs.geometry = some g →
    ∃ t, exec .frameInit s = .next t ∧
      (∀ x y, x < g.width → y < g.width → t.mem.read (0x08000 + y * g.width + x) = skeletonCell g x y) ∧
      SameBytesOutside 0x08000 (g.width * g.width) s t ∧
      t.regs = { s.regs with
        status := statusAfter 0x4#4 s.regs.status.ovr none, sel := ⟨s.regs.sel.mask, false⟩ } ∧
      t.engine = .idle ∧ SamePorts s t

/-- R100 to R104, R106: what the skeleton of every version holds after all its steps: the finders with their separators,
the visible timing strips, the alignment patterns, the light format cells, the dark module and the version blocks. -/
def Obligations.SkeletonHoldsItsFixedPatterns : Prop :=
  ∀ (v : Nat) (g : Geometry), geometry v = some g →
    (∀ c ∈ [(3, 3), (g.width - 4, 3), (3, g.width - 4)], ∀ x y, x < g.width → y < g.width →
      ringDistance x y c.1 c.2 ≤ 4 →
      skeletonCell g x y = if ringDistance x y c.1 c.2 ∈ [0, 1, 3] then 0x81#8 else 0x80#8) ∧
    (∀ i, 8 ≤ i → i ≤ g.width - 9 →
      skeletonCell g i 6 = (if i % 2 = 0 then 0x81#8 else 0x80#8) ∧
      skeletonCell g 6 i = (if i % 2 = 0 then 0x81#8 else 0x80#8)) ∧
    (∀ i j, i < g.align.length → j < g.align.length →
      (i, j) ∉ [(0, 0), (0, g.align.length - 1), (g.align.length - 1, 0)] → ∀ x y,
      ringDistance x y (g.align.getD i 0) (g.align.getD j 0) ≤ 2 →
      skeletonCell g x y =
        if ringDistance x y (g.align.getD i 0) (g.align.getD j 0) ∈ [0, 2] then 0x81#8 else 0x80#8) ∧
    (∀ i < 15, skeletonCell g (formatFirstCopy i).1 (formatFirstCopy i).2 = 0x80#8 ∧
      skeletonCell g (formatSecondCopy g.width i).1 (formatSecondCopy g.width i).2 = 0x80#8) ∧
    skeletonCell g 8 (g.width - 8) = 0x81#8 ∧
    (7 ≤ v → ∀ i < 18,
      skeletonCell g (g.width - 11 + i % 3) (i / 3) = (if g.vword.getLsbD i then 0x81#8 else 0x80#8) ∧
      skeletonCell g (i / 3) (g.width - 11 + i % 3) = (if g.vword.getLsbD i then 0x81#8 else 0x80#8))

/-- R111: the skeleton of every version has exactly 8·T + REM non-fixed cells. -/
def Obligations.SkeletonFreeCellsMatchTheCapacity : Prop :=
  ∀ (v : Nat) (g : Geometry), geometry v = some g →
    (skeleton g).countP (fun c => !isFixed c) = 8 * g.total + g.rem

/-- R109: the traversal visits every cell of the grid outside column 6 exactly once, from the bottom-right cell on, in the
order `visitedCell` gives in closed form: pairs of columns from the right, the first upward and then alternating, the
right column first. -/
def Obligations.TraversalVisitsEachCellOnce : Prop :=
  ∀ (v : Nat) (g : Geometry), geometry v = some g →
    (traversal g.width).length = g.width * (g.width - 1) ∧
    (∀ k < g.width * (g.width - 1), (traversal g.width)[k]? = some (visitedCell g.width k)) ∧
    (traversal g.width).Nodup ∧ (traversal g.width).head? = some (g.width - 1, g.width - 1) ∧
    ∀ x y, (x, y) ∈ traversal g.width ↔ x < g.width ∧ y < g.width ∧ x ≠ 6

/-- R108, R110, R112: FRAME_PLACE gives the i-th non-fixed visited cell bit i of CW_BUF (most significant first), 0 past
the stream; fixed cells, the never visited column 6 (log entry 18) and every other byte keep their values, and of the
registers only SEL.VALID and STATUS change. -/
def Obligations.FramePlaceFillsFreeCellsInOrder : Prop :=
  ∀ (s : State) (g : Geometry), s.regs.geometry = some g →
    ∃ t, exec .framePlace s = .next t ∧
      (let free := (traversal g.width).filter fun c => !isFixed (s.mem.read (0x08000 + c.2 * g.width + c.1))
       ∀ i c, free[i]? = some c → t.mem.read (0x08000 + c.2 * g.width + c.1) =
         if i < 8 * g.total ∧ (s.mem.read (0x02000 + i / 8)).getLsbD (7 - i % 8) = true then 0x03#8 else 0x02#8) ∧
      (∀ x y, x < g.width → y < g.width → isFixed (s.mem.read (0x08000 + y * g.width + x)) = true ∨ x = 6 →
        t.mem.read (0x08000 + y * g.width + x) = s.mem.read (0x08000 + y * g.width + x)) ∧
      SameBytesOutside 0x08000 (g.width * g.width) s t ∧
      t.regs = { s.regs with
        status := statusAfter 0x5#4 s.regs.status.ovr none, sel := ⟨s.regs.sel.mask, false⟩ } ∧
      t.engine = .idle ∧ SamePorts s t

/-! ### The mask evaluator -/

/-- R115: format bit i stands in its first and its second copy, and in no other cell; a candidate's module there is
dark exactly when the bit is 1; the 30 cells are the format area of R103. -/
def Obligations.FormatBitsStandInTheirTwoCopies : Prop :=
  ∀ w, 21 ≤ w →
    (∀ i < 15, formatBitIndex w (formatFirstCopy i).1 (formatFirstCopy i).2 = some i ∧
      formatBitIndex w (formatSecondCopy w i).1 (formatSecondCopy w i).2 = some i ∧
      ∀ (fmt : BitVec 15) (m : BitVec 3) (c : Byte),
        candidateBit w fmt m (formatFirstCopy i).1 (formatFirstCopy i).2 c = fmt.getLsbD i ∧
        candidateBit w fmt m (formatSecondCopy w i).1 (formatSecondCopy w i).2 c = fmt.getLsbD i) ∧
    ∀ x y, x < w → y < w →
      (formatBitIndex w x y).isSome = formatArea w x y ∧
      ∀ i, formatBitIndex w x y = some i → i < 15 ∧ ((x, y) = formatFirstCopy i ∨ (x, y) = formatSecondCopy w i)

/-- R118: the run-length list describes its line, light run first; only the first entry can be the placeholder −1, and
every other entry is at least 1. -/
def Obligations.RunLengthListDescribesItsLine : Prop :=
  ∀ line : List Bool, expandRuns false (runLengths line) = line ∧
    ∀ k n, (runLengths line)[k]? = some n → 1 ≤ n ∨ (k = 0 ∧ n = -1 ∧ line.head? = some true)

/-- R38, R122, R123: a computed total is the exact sum of its four parts and below 2^22, so it never reads as "not
evaluated"; rule 4 adds at most 100 and the dark count is at most 31329. -/
def Obligations.ComputedTotalsAreExactAndBounded : Prop :=
  ∀ (v : Nat) (g : Geometry) (lvl : Level) (m : BitVec 3) (cells : List Byte), geometry v = some g →
    cells.length = g.width * g.width →
    let e := scoreOf g lvl cells m
    e.total.toNat = e.n1.toNat + e.n2.toNat + e.n3.toNat + e.n4.toNat ∧ e.total.toNat < 2 ^ 22 ∧
      e.n4.toNat ≤ 100 ∧ e.dark.toNat ≤ 31329

/-- R125: the selected mask is a candidate of smallest total, and among equal totals the lowest id. -/
def Obligations.SelectionTakesTheLowestMinimum : Prop :=
  ∀ (en : BitVec 8) (total : BitVec 3 → Nat) (m : BitVec 3),
    selectMask en total = some m ↔
      en.getLsbD m.toNat = true ∧
      ∀ k : BitVec 3, en.getLsbD k.toNat = true → total m < total k ∨ (total m = total k ∧ m.toNat ≤ k.toNat)

/-- R113, R115 to R117, R119 to R123, R126: MASK_APPLY writes mask m's candidate to OUT, scores that candidate and no
other, and sets FORMAT and SEL; the candidate and its penalties are those of the rules, written out in `IsCandidate` and
`PenaltiesFollowTheRules`; GRID and every other byte keep their values. -/
def Obligations.MaskApplyWritesAndScoresItsCandidate : Prop :=
  ∀ (s : State) (g : Geometry) (m : BitVec 3), s.regs.geometry = some g →
    ∃ t, exec (.maskApply m) s = .next t ∧
      (∀ x y, x < g.width → y < g.width → t.mem.read (0x10000 + y * g.width + x) =
        if candidateBit g.width (formatWord s.regs.level m) m x y (s.mem.read (0x08000 + y * g.width + x)) then 1#8
        else 0#8) ∧
      (∃ C : Nat → Nat → Bool,
        IsCandidate g.width (formatWord s.regs.level m) m (fun x y => s.mem.read (0x08000 + y * g.width + x)) C ∧
        (∀ x y, x < g.width → y < g.width →
          t.mem.read (0x10000 + y * g.width + x) = if C x y = true then 1#8 else 0#8) ∧
        PenaltiesFollowTheRules g.width C (t.regs.scoreEntry m)) ∧
      SameBytesOutside 0x10000 (g.width * g.width) s t ∧
      (∀ k, t.regs.scoreEntry k =
        if k = m then penalties g.width (candidateMatrix s g m) else ScoreEntry.notEvaluated) ∧
      t.regs = { s.regs with
        status := statusAfter 0x6#4 s.regs.status.ovr none
        format := formatWord s.regs.level m
        sel := ⟨m, true⟩
        score := t.regs.score } ∧
      t.engine = .idle ∧ SamePorts s t

/-- R113, R115 to R117, R119 to R125, R127: MASK_EVAL scores every candidate of MASK_EN and no other, selects the lowest
minimum, writes its matrix to OUT and sets FORMAT and SEL; the candidates and their penalties are those of the rules,
written out in `IsCandidate` and `PenaltiesFollowTheRules`; GRID and every other byte keep their values. -/
def Obligations.MaskEvalSelectsAndWritesTheMinimum : Prop :=
  ∀ (s : State) (g : Geometry), s.regs.geometry = some g → s.regs.config.maskEn ≠ 0#8 →
    ∃ t m, exec .maskEval s = .next t ∧
      (∀ k, t.regs.scoreEntry k =
        if s.regs.config.maskEn.getLsbD k.toNat then penalties g.width (candidateMatrix s g k)
        else ScoreEntry.notEvaluated) ∧
      s.regs.config.maskEn.getLsbD m.toNat = true ∧
      (∀ k : BitVec 3, s.regs.config.maskEn.getLsbD k.toNat = true →
        (t.regs.scoreEntry m).total < (t.regs.scoreEntry k).total ∨
        ((t.regs.scoreEntry m).total = (t.regs.scoreEntry k).total ∧ m.toNat ≤ k.toNat)) ∧
      (∀ x y, x < g.width → y < g.width → t.mem.read (0x10000 + y * g.width + x) =
        if candidateBit g.width (formatWord s.regs.level m) m x y (s.mem.read (0x08000 + y * g.width + x)) then 1#8
        else 0#8) ∧
      (∀ k : BitVec 3, s.regs.config.maskEn.getLsbD k.toNat = true → ∃ C : Nat → Nat → Bool,
        IsCandidate g.width (formatWord s.regs.level k) k (fun x y => s.mem.read (0x08000 + y * g.width + x)) C ∧
        PenaltiesFollowTheRules g.width C (t.regs.scoreEntry k) ∧
        (k = m → ∀ x y, x < g.width → y < g.width →
          t.mem.read (0x10000 + y * g.width + x) = if C x y = true then 1#8 else 0#8)) ∧
      SameBytesOutside 0x10000 (g.width * g.width) s t ∧
      t.regs = { s.regs with
        status := statusAfter 0x7#4 s.regs.status.ovr none
        format := formatWord s.regs.level m
        sel := ⟨m, true⟩
        score := t.regs.score } ∧
      t.engine = .idle ∧ SamePorts s t

/-- R127: issuing MASK_EVAL twice gives identical results, whatever the first one reported. -/
def Obligations.MaskEvalTwiceChangesNothing : Prop :=
  ∀ s : State, ∃ t, exec .maskEval s = .next t ∧ exec .maskEval t = .next t

/-- R127: MASK_EVAL with a single-bit MASK_EN gives the same OUT, FORMAT, SEL and scoreboard as MASK_APPLY of that
mask; only LASTOP differs. -/
def Obligations.SingleCandidateEvalIsMaskApply : Prop :=
  ∀ (s : State) (m : BitVec 3), s.regs.config.maskEn = 1#8 <<< m.toNat → s.regs.geometry.isSome = true →
    ∃ t, exec (.maskApply m) s = .next t ∧
      exec .maskEval s = .next { t with
        regs := { t.regs with status := { t.regs.status with lastop := 0x7#4 } } }

/-! ### ENCODE -/

/-- R129: when its three checks pass, ENCODE leaves what BLOCK_ENCODE, FRAME_INIT, FRAME_PLACE and MASK_EVAL issued one
after the other leave; only LASTOP differs. -/
def Obligations.EncodeIsThePipeline : Prop :=
  ∀ (s : State) (g : Geometry), s.regs.geometry = some g → s.regs.dataLen.toNat = (s.regs.blockSpec g).data →
    s.regs.config.maskEn ≠ 0#8 →
    ∃ s1 s2 s3 s4, exec .blockEncode s = .next s1 ∧ exec .frameInit s1 = .next s2 ∧
      exec .framePlace s2 = .next s3 ∧ exec .maskEval s3 = .next s4 ∧
      exec .encodeSymbol s = .next { s4 with
        regs := { s4.regs with status := { s4.regs.status with lastop := 0x8#4 } } } ∧
      s4.regs.status = statusAfter 0x7#4 s.regs.status.ovr none ∧ s4.regs.sel.valid = true ∧
      s4.regs.cwLen = BitVec.ofNat 12 g.total

/-- R129: ENCODE twice with the same inputs leaves the same registers and the same byte at every address. -/
def Obligations.EncodeTwiceGivesTheSameResult : Prop :=
  ∀ s : State, ∃ t u, exec .encodeSymbol s = .next t ∧ exec .encodeSymbol t = .next u ∧
    u.regs = t.regs ∧ SameBytes t u

/-! ### Host transactions -/

/-- R54 to R56: an access that touches an unmapped byte, a register access that is not an aligned word, or a misaligned
access of a memory answers BusError and has no other effect, IDLE or BUSY, with `rst_n` high or low (log entry 8). -/
def Obligations.AccessWithoutMeaningIsBusError : Prop :=
  ∀ (s : State) (addr : Addr) (size : Size) (data : Word) (x : Txn) (rest : List Input),
    (∃ k < size.bytes, Unmapped (addr.toNat + k)) ∨ (addr.toNat < 0x200 ∧ (size ≠ .b4 ∨ addr.toNat % 4 ≠ 0)) ∨
      ((regionOf addr.toNat).isSome = true ∧ addr.toNat % size.bytes ≠ 0) →
    x = .read addr size ∨ x = .write addr size data → s.inputs = .txn x :: rest →
    (s.engine = .idle → step s = .next { s with inputs := rest, responses := .busError :: s.responses }) ∧
    ∀ i left, s.engine = .busy i (left + 1) →
      step s = .next { s with inputs := rest, engine := .busy i left, responses := .busError :: s.responses }

/-- R56: an aligned access of a memory stays in its region and is answered otherwise than by BusError; a misaligned one
answers BusError and has no other effect, also while `rst_n` is low (log entry 8). -/
def Obligations.MemoryAccessMustBeAligned : Prop :=
  ∀ (s : State) (addr : Addr) (size : Size) (data : Word) (x : Txn) (rest : List Input) (r : Region),
    regionOf addr.toNat = some r → x = .read addr size ∨ x = .write addr size data →
    s.inputs = .txn x :: rest → s.engine = .idle →
    (addr.toNat % size.bytes = 0 → (∀ k < size.bytes, regionOf (addr.toNat + k) = some r) ∧
      ∃ t a, step s = .next t ∧ t.responses = a :: s.responses ∧ a ≠ .busError) ∧
    (addr.toNat % size.bytes ≠ 0 →
      step s = .next { s with inputs := rest, responses := .busError :: s.responses })

/-- R57: a write of a writable memory stores its bytes little-endian, changes no other byte and no register, and a read
of the same place gives the written value back. -/
def Obligations.MemoryWriteThenReadGivesTheValue : Prop :=
  ∀ (s : State) (addr : Addr) (size : Size) (data : Word) (rest : List Input) (r : Region),
    regionOf addr.toNat = some r → r = .dataBuf ∨ r = .cwBuf ∨ r = .parBuf ∨ r = .grid →
    addr.toNat % size.bytes = 0 → s.engine = .idle → s.rstN = true →
    s.inputs = .txn (.write addr size data) :: .txn (.read addr size) :: rest →
    ∃ t u, step s = .next t ∧ step t = .next u ∧
      (∀ k < size.bytes, t.mem.read (addr.toNat + k) = data.extractLsb' (8 * k) 8) ∧
      SameBytesOutside addr.toNat size.bytes s t ∧ t.regs = s.regs ∧ t.engine = .idle ∧
      t.responses = .ok :: s.responses ∧
      u = { t with inputs := rest, responses := .data (data &&& BitVec.ofNat 32 (2 ^ (8 * size.bytes) - 1)) ::
        t.responses }

/-- R59: a write of a read-only memory or register, or of a reserved offset (R16), answers ok and changes nothing. -/
def Obligations.ReadOnlyWriteChangesNothing : Prop :=
  ∀ (s : State) (addr : Addr) (size : Size) (data : Word) (rest : List Input), s.engine = .idle →
    s.inputs = .txn (.write addr size data) :: rest → LegalAccess addr.toNat size →
    (regionOf addr.toNat = some .out ∨ regionOf addr.toNat = some .alphaTo ∨
      regionOf addr.toNat = some .indexOf ∨ regionOf addr.toNat = some .genPoly ∨
      addr.toNat ∈ [0x000, 0x014, 0x018, 0x01C, 0x034, 0x038, 0x03C, 0x040, 0x044, 0x048, 0x04C] ∨
      (0x050 ≤ addr.toNat ∧ addr.toNat < 0x200)) →
    step s = .next { s with inputs := rest, responses := .ok :: s.responses }

/-- R61: a read while IDLE changes nothing but the answer it gives. R16 to R39, R53: at each register's offset the answer
is that register's value, a reserved offset answers 0. R57: an aligned read of any memory, the read-only ones too,
answers its stored bytes, little-endian. (A memory read while `rst_n` is low: log entry 9.) -/
def Obligations.IdleReadHasNoSideEffect : Prop :=
  ∀ (s : State) (addr : Addr) (size : Size) (rest : List Input), s.engine = .idle →
    s.inputs = .txn (.read addr size) :: rest →
    ∃ a, step s = .next { s with inputs := rest, responses := a :: s.responses } ∧
      (size = .b4 → ∀ v, (addr.toNat, v) ∈ idleRegisterWords s → a = .data v) ∧
      (size = .b4 → ∀ m v, (addr.toNat, v) ∈ scoreRegisterWords s m → a = .data v) ∧
      (size = .b4 → addr.toNat % 4 = 0 →
        addr.toNat = 0x038 ∨ addr.toNat = 0x03C ∨ (0x050 ≤ addr.toNat ∧ addr.toNat < 0x100) ∨
          (0x1C0 ≤ addr.toNat ∧ addr.toNat < 0x200) → a = .data 0#32) ∧
      ((regionOf addr.toNat).isSome = true → addr.toNat % size.bytes = 0 → ∃ v : Word, a = .data v ∧
        v.toNat = ((List.range size.bytes).map fun i => (s.mem.read (addr.toNat + i)).toNat * 256 ^ i).sum)

/-- R16, R20, R24, R28 to R32: a read/write register reads back the written fields, its reserved bits 0; the other
read/write registers, every other stored register and the memory keep their values. -/
def Obligations.WritableRegistersReadBackTheirFields : Prop :=
  ∀ (s : State) (v : Word) (rest : List Input) (offset : Addr) (r : Reg) (fields : Word),
    (offset, r, fields) ∈ readWriteRegisters → s.engine = .idle → s.rstN = true →
    s.inputs = .txn (.write offset .b4 v) :: .txn (.read offset .b4) :: rest →
    ∃ t u, step s = .next t ∧ step t = .next u ∧
      u.responses = .data (v &&& fields) :: .ok :: s.responses ∧ readReg u r = v &&& fields ∧ u.mem = s.mem ∧
      (∀ x ∈ readWriteRegisters, x.2.1 ≠ r → readReg u x.2.1 = readReg s x.2.1) ∧
      u.regs.status = s.regs.status ∧ u.regs.codec = s.regs.codec ∧ u.regs.score = s.regs.score ∧
      u.regs.cwLen = s.regs.cwLen ∧ u.regs.format = s.regs.format ∧ u.regs.sel = s.regs.sel

/-- R16, R19, R142: a write of STATUS clears DONE and OVR where it has ones and changes no other register or memory. -/
def Obligations.StatusOnesClearDoneAndOverrun : Prop :=
  ∀ (s : State) (v : Word) (rest : List Input), s.engine = .idle → s.rstN = true →
    s.inputs = .txn (.write 0x008#17 .b4 v) :: rest →
    step s = .next { s with
      inputs := rest
      responses := .ok :: s.responses
      regs := { s.regs with status := { s.regs.status with
        done := s.regs.status.done && !v.getLsbD 1, ovr := s.regs.status.ovr && !v.getLsbD 3 } } }

/-- R140: `irq = IE AND DONE`; it is low after DONE is cleared, after an issue and after a reset, high after any
completion, with or without error, when IE = 1, and OVR does not raise it. -/
def Obligations.InterruptIsEnableAndDone : Prop :=
  (∀ s : State, s.irq = (s.regs.irqEn && s.regs.status.done)) ∧
  (∀ (s : State) (v : Word), v.getLsbD 1 = true → (writeReg v s .status).irq = false) ∧
  (∀ (i : Instr) (n : Nat) (s : State), (issue i n s).irq = false) ∧
  (∀ s : State, (assertReset s).irq = false ∧ (powerOn s).irq = false) ∧
  (∀ (i : Instr) (s : State), i ≠ .softReset → ∃ t, exec i s = .next t ∧ t.irq = s.regs.irqEn) ∧
  (∀ s : State, ∃ t, exec .softReset s = .next t ∧ t.irq = false) ∧
  ∀ s : State, (setOverrun s).irq = s.irq

/-! ### BUSY and reset -/

/-- R139: while BUSY every legal write answers ok, is dropped and sets OVR; an illegal one answers BusError and does
not set OVR. -/
def Obligations.BusyWritesAreDroppedAndSetOverrun : Prop :=
  ∀ (s : State) (i : Instr) (left : Nat) (addr : Addr) (size : Size) (data : Word) (rest : List Input),
    s.engine = .busy i (left + 1) → s.inputs = .txn (.write addr size data) :: rest →
    (LegalAccess addr.toNat size → step s = .next { s with
      inputs := rest
      engine := .busy i left
      responses := .ok :: s.responses
      regs := { s.regs with status := { s.regs.status with ovr := true } } }) ∧
    (¬ LegalAccess addr.toNat size → step s = .next { s with
      inputs := rest, engine := .busy i left, responses := .busError :: s.responses })

/-- R62: while BUSY a read of STATUS has BUSY = 1; a register that the command does not write reads as stored, and so
does every byte, at its place in the answer of a 1-, 2- or 4-byte read, that the command does not write; a read changes
nothing but the answer and the count of free values (log entry 5; what a command may write: log entries 6, 18). -/
def Obligations.BusyReadsKeepTheStateAndShowBusy : Prop :=
  ∀ (s : State) (i : Instr) (left : Nat) (addr : Addr) (size : Size) (rest : List Input),
    s.engine = .busy i (left + 1) → s.inputs = .txn (.read addr size) :: rest → LegalAccess addr.toNat size →
    ∃ v, step s = .next { s with
        inputs := rest, engine := .busy i left, responses := .data v :: s.responses, draws := s.draws + 1 } ∧
      (addr = 0x008#17 → v.getLsbD 0 = true) ∧
      (addr.toNat < 0x200 → mayWriteReg i (regAt addr.toNat) = false → v = readReg s (regAt addr.toNat)) ∧
      (0x200 ≤ addr.toNat → v.toNat < 2 ^ (8 * size.bytes) ∧ ∀ k < size.bytes,
        mayWriteByte i s (addr.toNat + k) = false → v.extractLsb' (8 * k) 8 = s.mem.read (addr.toNat + k))

/-- R60, R137, R138, R139: whatever transactions land while it is BUSY, a command with n steps left completes after them
with the result it has when it runs at once; only OVR, the answers and the draws differ. (BUSY counted in steps, one
input each, none in the completing step, all writes at completion: log entries 1, 2, 10.) -/
def Obligations.BusyCommandIsAtomic : Prop :=
  ∀ (n : Nat) (s : State) (i : Instr), s.engine = .busy i n → noResets (s.inputs.take n) = true →
    ∃ t u : State, Host.Core.run Sys2Proof.core (n + 1) s = .next t ∧ exec i s = .next u ∧ t.mem = u.mem ∧
      t.regs.withoutOvr = u.regs.withoutOvr ∧ t.engine = .idle ∧ t.inputs = s.inputs.drop n

/-- R150, R151: `rst_n` low gives every register its reset value, IDLE, `irq` low, no completion; the tables read 0, the
bytes an abandoned command may write read as UNINIT (log entry 4), every other byte is kept; `rst_n` high changes only
the pin, and a running command goes on. Which bytes a command may write is `mayWriteByte`, the model's reading (log
entry 6, and log entry 18 for column 6). -/
def Obligations.ResetPinResetsAndAbandons : Prop :=
  (∀ (s : State) (rest : List Input), s.inputs = .rstPin false :: rest →
    (∀ i, s.engine ≠ .busy i 0) →
    ∃ t, step s = .next t ∧ t.regs = Regs.reset ∧ t.engine = .idle ∧ t.rstN = false ∧ t.irq = false ∧
      t.inputs = rest ∧ t.responses = s.responses ∧
      (∀ a, isTableAddr a = true → t.mem.read a = 0) ∧
      (s.engine = .idle → ∀ a, isTableAddr a = false → t.mem.read a = s.mem.read a) ∧
      ∀ i left, s.engine = .busy i left → ∀ a, isTableAddr a = false →
        t.mem.read a = if mayWriteByte i s a then Memory.unlisted a else s.mem.read a) ∧
  (∀ (r : Region) (k : Nat), k < regionSize r → r ≠ .alphaTo → r ≠ .indexOf → r ≠ .genPoly →
    Memory.unlisted (regionBase r + k) = Config.uninit r k) ∧
  (∀ (s : State) (rest : List Input), s.inputs = .rstPin true :: rest → s.engine = .idle →
    step s = .next { s with inputs := rest, rstN := true }) ∧
  ∀ (s : State) (rest : List Input) (i : Instr) (left : Nat), s.inputs = .rstPin true :: rest →
    s.engine = .busy i (left + 1) →
    step s = .next { s with inputs := rest, rstN := true, engine := .busy i left }

/-- R50, R150, R151: power-on gives the state after reset: every register at its reset value, IDLE, no memory byte
written. The pin level and the model's own fields go on (log entry 16). -/
def Obligations.PowerOnGivesTheResetState : Prop :=
  ∀ (s : State) (rest : List Input), s.inputs = .powerOn :: rest → (∀ i, s.engine ≠ .busy i 0) →
    ∃ t, step s = .next t ∧ t.regs = Regs.reset ∧ t.engine = .idle ∧ t.irq = false ∧
      (∀ a, t.mem.read a = Memory.unlisted a) ∧ SamePorts { s with inputs := rest } t

/-- R150: while `rst_n` is low a legal write, of CMD too, answers ok and changes nothing. -/
def Obligations.WritesInResetAreIgnored : Prop :=
  ∀ (s : State) (addr : Addr) (size : Size) (data : Word) (rest : List Input), s.rstN = false → s.engine = .idle →
    s.inputs = .txn (.write addr size data) :: rest → LegalAccess addr.toNat size →
    step s = .next { s with inputs := rest, responses := .ok :: s.responses }

/-! ### Invariants every step keeps -/

/-- The memory stays in its canonical form (log entry 3). -/
def Obligations.StepKeepsTheMemoryCanonical : Prop :=
  ∀ s t : State, MemoryCanonical s → step s = .next t → MemoryCanonical t

/-- R41, R44: the codec tables stay those of the captured tuple, and 0 while none is captured. -/
def Obligations.StepKeepsTheCodecCoherent : Prop :=
  ∀ s t : State, CodecCoherent s → step s = .next t → CodecCoherent t

/-- R19, R134, R137, R138: STATUS stays coherent. -/
def Obligations.StepKeepsStatusCoherent : Prop :=
  ∀ s t : State, StatusCoherent s → step s = .next t → StatusCoherent t

/-- R150: while `rst_n` stays low the core stays in its reset state. -/
def Obligations.StepKeepsTheCoreInReset : Prop :=
  ∀ s t : State, ResetHeld s → step s = .next t → ResetHeld t

/-- R38, R39, R123: every scoreboard entry stays "not evaluated" or an exact bounded sum. -/
def Obligations.StepKeepsTheScoreboardCoherent : Prop :=
  ∀ s t : State, ScoreboardCoherent s → step s = .next t → ScoreboardCoherent t

/-- R43, R53, R73: every byte written to OUT stays 0 or 1, for the host cannot write it and the core writes nothing
else. -/
def Obligations.StepKeepsOutBinary : Prop :=
  ∀ s t : State, OutBinary s → step s = .next t → OutBinary t
end

