-- ==== Sys2Proof/Laws/Memory.lean ====
section
/-! SUPPORT. The laws of the memory operations: what a read gives after a store or a forget, and that every operation
keeps the canonical form. -/

namespace Sys2Proof.Machine

/-- The keys of the memory entries of a block. -/
theorem mem_cellsFrom {c : Host.Cell} {bytes : List Byte} {a : Nat} (h : c ∈ cellsFrom a bytes) :
    a ≤ c.1 ∧ c.1 < a + bytes.length := by
  induction bytes generalizing a with
  | nil => simp [cellsFrom] at h
  | cons b bs ih =>
    simp only [cellsFrom, List.mem_cons] at h
    rcases h with rfl | h
    · simp
    · have := ih h
      simp only [List.length_cons]
      omega

/-- The entries of a block stand at strictly rising addresses. -/
theorem cellsFrom_pairwise (a : Nat) (bytes : List Byte) :
    (cellsFrom a bytes).Pairwise (fun c d => c.1 < d.1) := by
  induction bytes generalizing a with
  | nil => simp [cellsFrom]
  | cons b bs ih =>
    simp only [cellsFrom, List.pairwise_cons]
    exact ⟨fun d hd => by have := mem_cellsFrom hd; omega, ih _⟩

/-- The entry of a block at an address is its byte there. -/
theorem lookup_cellsFrom (base : Nat) (bytes : List Byte) (k : Nat) (h : k < bytes.length) :
    (cellsFrom base bytes).lookup (base + k) = some bytes[k] := by
  induction bytes generalizing base k with
  | nil => simp at h
  | cons b bs ih =>
    cases k with
    | zero => simp [cellsFrom]
    | succ k =>
      have hne : (base + (k + 1) == base) = false := by simp
      rw [cellsFrom, List.lookup_cons, hne]
      have := ih (base + 1) k (by simpa using h)
      simpa [Nat.add_assoc, Nat.add_comm, Nat.add_left_comm] using this

/-- Looking an address up among entries that satisfy a test on addresses alone. -/
theorem lookup_filter_key (m : Memory) (p : Nat → Bool) (a : Nat) :
    List.lookup a (m.filter fun c => p c.1) = if p a then m.lookup a else none := by
  induction m with
  | nil => simp
  | cons c m ih =>
    obtain ⟨k, b⟩ := c
    by_cases hk : a = k
    · subst hk
      cases hp : p a <;> simp [hp, ih]
    · have hne : (a == k) = false := by simp [hk]
      cases hp : p k <;> simp [hp, ih, List.lookup_cons, hne]

/-- Looking up in one list and then in another. -/
theorem lookup_append_or (l r : Memory) (a : Nat) :
    List.lookup a (l ++ r) = (List.lookup a l).or (List.lookup a r) := by
  induction l with
  | nil => simp
  | cons c l ih =>
    obtain ⟨k, b⟩ := c
    cases h : a == k <;> simp [List.lookup_cons, h, ih]

/-- An address that no entry has is not found. -/
theorem lookup_none_of_key (m : Memory) (a : Nat) (h : ∀ c ∈ m, c.1 ≠ a) : List.lookup a m = none := by
  induction m with
  | nil => rfl
  | cons c m ih =>
    obtain ⟨k, b⟩ := c
    have hk : (a == k) = false := by
      have := h (k, b) (by simp)
      simpa using fun e : a = k => this e.symm
    simp [List.lookup_cons, hk, ih fun d hd => h d (by simp [hd])]

/-- What the listing rule does to an entry that is looked up. -/
theorem lookup_filter_listed (m : Memory) (hm : m.Pairwise fun c d => c.1 < d.1) (a : Nat) :
    List.lookup a (m.filter Memory.listed) =
      (List.lookup a m).bind fun b => if Memory.listed (a, b) then some b else none := by
  induction m with
  | nil => rfl
  | cons c m ih =>
    obtain ⟨k, b⟩ := c
    rw [List.pairwise_cons] at hm
    by_cases hk : a = k
    · subst hk
      cases hl : Memory.listed (a, b)
      · have : List.lookup a (m.filter Memory.listed) = none :=
          lookup_none_of_key _ _ fun d hd => by
            have := hm.1 d (List.mem_of_mem_filter hd)
            simp only at this
            omega
        simp [hl, this]
      · simp [hl]
    · have hne : (a == k) = false := by simp [hk]
      cases hl : Memory.listed (k, b) <;> simp [hl, ih hm.2, List.lookup_cons, hne]

/-- A byte of a codec table that is not listed reads 0 (R41, R50). -/
theorem unlisted_table {a : Nat} (h : isTableAddr a = true) : Memory.unlisted a = 0 := by
  unfold Memory.unlisted
  split
  · simp [h]
  · rfl

/-- Outside the stored block a store changes no byte. -/
theorem read_store_outside (m : Memory) (base : Nat) (bytes : List Byte) (a : Nat)
    (h : a < base ∨ base + bytes.length ≤ a) : (m.store base bytes).read a = m.read a := by
  have hc : List.lookup a ((cellsFrom base bytes).filter Memory.listed) = none :=
    lookup_none_of_key _ _ fun c hc => by
      have := mem_cellsFrom (List.mem_of_mem_filter hc)
      omega
  have : List.lookup a (m.store base bytes) = List.lookup a m := by
    unfold Memory.store
    rw [lookup_append_or, lookup_append_or, hc,
      lookup_filter_key m (fun k => decide (k < base)), lookup_filter_key m (fun k => decide (base + bytes.length ≤ k))]
    rcases h with h | h
    · have h' : ¬ base + bytes.length ≤ a := by omega
      simp [h, h']
    · have h' : ¬ a < base := by omega
      simp [h, h']
  unfold Memory.read
  rw [this]

/-- Inside the stored block a store gives the stored bytes. -/
theorem read_store_inside (m : Memory) (base : Nat) (bytes : List Byte) (k : Nat) (h : k < bytes.length) :
    (m.store base bytes).read (base + k) = bytes[k] := by
  have h1 : ¬ base + k < base := by omega
  have h2 : ¬ base + bytes.length ≤ base + k := by omega
  have hl : List.lookup (base + k) (m.store base bytes) =
      if Memory.listed (base + k, bytes[k]) then some bytes[k] else none := by
    unfold Memory.store
    rw [lookup_append_or, lookup_append_or,
      lookup_filter_key m (fun k => decide (k < base)), lookup_filter_key m (fun k => decide (base + bytes.length ≤ k)),
      lookup_filter_listed _ (cellsFrom_pairwise base bytes), lookup_cellsFrom base bytes k h]
    simp only [h1, h2, decide_false, Bool.false_eq_true, if_false, Option.none_or, Option.or_none, Option.bind_some]
  unfold Memory.read
  rw [hl]
  by_cases hs : Memory.listed (base + k, bytes[k]) = true
  · simp [hs]
  · have hs' : isTableAddr (base + k) = true ∧ bytes[k] = 0 := by
      simpa [Memory.listed] using hs
    rw [if_neg hs, hs'.2]
    exact unlisted_table hs'.1

/-- A forgotten byte reads as unlisted, every other byte as before. -/
theorem read_forget (m : Memory) (p : Nat → Bool) (a : Nat) :
    (m.forget p).read a = if p a then Memory.unlisted a else m.read a := by
  unfold Memory.read Memory.forget
  rw [lookup_filter_key m (fun k => !p k)]
  cases p a <;> simp

/-- The codec tables read 0 after a reset of them, every other byte as before (R41, R50). -/
theorem read_clearTables (m : Memory) (a : Nat) :
    (clearTables m).read a = if isTableAddr a then 0 else m.read a := by
  unfold clearTables
  rw [read_forget]
  by_cases h : isTableAddr a = true
  · simp [h, unlisted_table h]
  · simp [h]

/-- A store of bytes of regions keeps the canonical form. -/
theorem store_wf (m : Memory) (base : Nat) (bytes : List Byte) (hm : Memory.wf m)
    (hr : ∀ k < bytes.length, (regionOf (base + k)).isSome) : Memory.wf (m.store base bytes) := by
  obtain ⟨hs, he⟩ := hm
  constructor
  · unfold Memory.store
    rw [List.pairwise_append, List.pairwise_append]
    refine ⟨⟨hs.filter _, (cellsFrom_pairwise base bytes).filter _, ?_⟩, hs.filter _, ?_⟩
    · intro c hc d hd
      have h1 := mem_cellsFrom (List.mem_of_mem_filter hd)
      have h2 := (List.mem_filter.mp hc).2
      simp only [decide_eq_true_eq] at h2
      omega
    · intro c hc d hd
      have h2 := (List.mem_filter.mp hd).2
      simp only [decide_eq_true_eq] at h2
      rcases List.mem_append.mp hc with hc | hc
      · have h1 := (List.mem_filter.mp hc).2
        simp only [decide_eq_true_eq] at h1
        omega
      · have h1 := mem_cellsFrom (List.mem_of_mem_filter hc)
        omega
  · intro c hc
    unfold Memory.store at hc
    rcases List.mem_append.mp hc with hc | hc
    · rcases List.mem_append.mp hc with hc | hc
      · exact he c (List.mem_of_mem_filter hc)
      · obtain ⟨h1, h2⟩ := List.mem_filter.mp hc
        have h3 := mem_cellsFrom h1
        refine ⟨?_, h2⟩
        have := hr (c.1 - base) (by omega)
        rwa [Nat.add_sub_cancel' h3.1] at this
    · exact he c (List.mem_of_mem_filter hc)

/-- A forget keeps the canonical form. -/
theorem forget_wf (m : Memory) (p : Nat → Bool) (hm : Memory.wf m) : Memory.wf (m.forget p) :=
  ⟨hm.1.filter _, fun c hc => hm.2 c (List.mem_of_mem_filter hc)⟩

/-- A reset of the codec tables keeps the canonical form. -/
theorem clearTables_wf (m : Memory) (hm : Memory.wf m) : Memory.wf (clearTables m) := forget_wf m _ hm

/-- The memory of the reset state is canonical. -/
theorem reset_mem_wf : Memory.wf State.reset.mem := by decide

/-- How many bytes a block read gives. -/
@[simp] theorem length_readBlock (m : Memory) (base len : Nat) : (m.readBlock base len).length = len := by
  simp [Memory.readBlock]

/-- The byte of a block read. -/
@[simp] theorem getElem_readBlock (m : Memory) (base len k : Nat) (h : k < (m.readBlock base len).length) :
    (m.readBlock base len)[k] = m.read (base + k) := by
  simp [Memory.readBlock]

/-- How many bytes a buffer read gives. -/
@[simp] theorem length_readBuf (m : Memory) (r : Region) (off len : Nat) : (m.readBuf r off len).length = len := by
  simp [Memory.readBuf]

/-- The byte of a buffer read. -/
@[simp] theorem getElem_readBuf (m : Memory) (r : Region) (off len k : Nat) (h : k < (m.readBuf r off len).length) :
    (m.readBuf r off len)[k] = m.read (regionBase r + off + k) := by
  simp [Memory.readBuf]

/-- A block read sees only the bytes of the block. -/
theorem readBlock_congr {m n : Memory} {base len : Nat} (h : ∀ k < len, m.read (base + k) = n.read (base + k)) :
    m.readBlock base len = n.readBlock base len := by
  unfold Memory.readBlock
  exact List.map_congr_left fun k hk => h k (List.mem_range.mp hk)

/-- What lying in a region means. -/
theorem inRegion_iff {r : Region} {a : Nat} :
    inRegion r a = true ↔ regionBase r ≤ a ∧ a < regionBase r + regionSize r := by
  simp [inRegion]

/-- Regions do not overlap (R53). -/
theorem inRegion_offset (r q : Region) (k : Nat) (h : k < regionSize r) :
    inRegion q (regionBase r + k) = decide (q = r) := by
  rw [Bool.eq_iff_iff, inRegion_iff, decide_eq_true_iff]
  cases r <;> cases q <;> simp only [regionBase, regionSize] at h ⊢ <;> simp <;> omega

/-- Every byte of a region is an address of that region and of no other. -/
theorem regionOf_inRegion (r : Region) (k : Nat) (h : k < regionSize r) : regionOf (regionBase r + k) = some r := by
  have : (fun q => inRegion q (regionBase r + k)) = fun q => decide (q = r) :=
    funext fun q => inRegion_offset r q k h
  unfold regionOf
  rw [this]
  cases r <;> rfl

/-- An address is of a region exactly when it lies in it. -/
theorem regionOf_eq_some {a : Nat} {r : Region} (h : regionOf a = some r) :
    regionBase r ≤ a ∧ a < regionBase r + regionSize r :=
  inRegion_iff.mp (List.find?_some (p := fun r => inRegion r a) h)

end Sys2Proof.Machine
end

