-- ==== Sys2Proof/Laws/State.lean ====
section
/-! SUPPORT. One lemma per field per update of the state, each true by definition, so that no proof unfolds a record
update. -/

namespace Sys2Proof.Machine

@[simp] theorem issue_regs (i : Instr) (n : Nat) (s : State) :
    (issue i n s).regs = { s.regs with status := s.regs.status.issued i.opcode } := rfl
@[simp] theorem issue_engine (i : Instr) (n : Nat) (s : State) : (issue i n s).engine = .busy i n := rfl
@[simp] theorem issue_mem (i : Instr) (n : Nat) (s : State) : (issue i n s).mem = s.mem := rfl
@[simp] theorem issue_rstN (i : Instr) (n : Nat) (s : State) : (issue i n s).rstN = s.rstN := rfl
@[simp] theorem issue_inputs (i : Instr) (n : Nat) (s : State) : (issue i n s).inputs = s.inputs := rfl
@[simp] theorem issue_responses (i : Instr) (n : Nat) (s : State) : (issue i n s).responses = s.responses := rfl
@[simp] theorem issue_latencies (i : Instr) (n : Nat) (s : State) : (issue i n s).latencies = s.latencies := rfl
@[simp] theorem issue_draws (i : Instr) (n : Nat) (s : State) : (issue i n s).draws = s.draws := rfl

@[simp] theorem complete_regs (s : State) :
    (complete s).regs = { s.regs with status := s.regs.status.completed } := rfl
@[simp] theorem complete_engine (s : State) : (complete s).engine = .idle := rfl
@[simp] theorem complete_mem (s : State) : (complete s).mem = s.mem := rfl
@[simp] theorem complete_rstN (s : State) : (complete s).rstN = s.rstN := rfl
@[simp] theorem complete_inputs (s : State) : (complete s).inputs = s.inputs := rfl
@[simp] theorem complete_responses (s : State) : (complete s).responses = s.responses := rfl
@[simp] theorem complete_latencies (s : State) : (complete s).latencies = s.latencies := rfl
@[simp] theorem complete_draws (s : State) : (complete s).draws = s.draws := rfl

@[simp] theorem raise_regs (e : CmdError) (s : State) :
    (raise e s).regs = { s.regs with status := s.regs.status.failed e } := rfl
@[simp] theorem raise_engine (e : CmdError) (s : State) : (raise e s).engine = .idle := rfl
@[simp] theorem raise_mem (e : CmdError) (s : State) : (raise e s).mem = s.mem := rfl
@[simp] theorem raise_rstN (e : CmdError) (s : State) : (raise e s).rstN = s.rstN := rfl
@[simp] theorem raise_inputs (e : CmdError) (s : State) : (raise e s).inputs = s.inputs := rfl
@[simp] theorem raise_responses (e : CmdError) (s : State) : (raise e s).responses = s.responses := rfl
@[simp] theorem raise_latencies (e : CmdError) (s : State) : (raise e s).latencies = s.latencies := rfl
@[simp] theorem raise_draws (e : CmdError) (s : State) : (raise e s).draws = s.draws := rfl

@[simp] theorem acknowledge_regs (v : Word) (s : State) :
    (acknowledge v s).regs = { s.regs with status := s.regs.status.written v } := rfl
@[simp] theorem acknowledge_engine (v : Word) (s : State) : (acknowledge v s).engine = s.engine := rfl
@[simp] theorem acknowledge_mem (v : Word) (s : State) : (acknowledge v s).mem = s.mem := rfl
@[simp] theorem acknowledge_rstN (v : Word) (s : State) : (acknowledge v s).rstN = s.rstN := rfl
@[simp] theorem acknowledge_inputs (v : Word) (s : State) : (acknowledge v s).inputs = s.inputs := rfl
@[simp] theorem acknowledge_responses (v : Word) (s : State) : (acknowledge v s).responses = s.responses := rfl
@[simp] theorem acknowledge_latencies (v : Word) (s : State) : (acknowledge v s).latencies = s.latencies := rfl
@[simp] theorem acknowledge_draws (v : Word) (s : State) : (acknowledge v s).draws = s.draws := rfl

@[simp] theorem respond_regs (a : Response) (s : State) : (respond a s).regs = s.regs := rfl
@[simp] theorem respond_engine (a : Response) (s : State) : (respond a s).engine = s.engine := rfl
@[simp] theorem respond_mem (a : Response) (s : State) : (respond a s).mem = s.mem := rfl
@[simp] theorem respond_rstN (a : Response) (s : State) : (respond a s).rstN = s.rstN := rfl
@[simp] theorem respond_inputs (a : Response) (s : State) : (respond a s).inputs = s.inputs := rfl
@[simp] theorem respond_responses (a : Response) (s : State) : (respond a s).responses = a :: s.responses := rfl
@[simp] theorem respond_latencies (a : Response) (s : State) : (respond a s).latencies = s.latencies := rfl
@[simp] theorem respond_draws (a : Response) (s : State) : (respond a s).draws = s.draws := rfl

@[simp] theorem countDraw_regs (s : State) : (countDraw s).regs = s.regs := rfl
@[simp] theorem countDraw_engine (s : State) : (countDraw s).engine = s.engine := rfl
@[simp] theorem countDraw_mem (s : State) : (countDraw s).mem = s.mem := rfl
@[simp] theorem countDraw_rstN (s : State) : (countDraw s).rstN = s.rstN := rfl
@[simp] theorem countDraw_inputs (s : State) : (countDraw s).inputs = s.inputs := rfl
@[simp] theorem countDraw_responses (s : State) : (countDraw s).responses = s.responses := rfl
@[simp] theorem countDraw_latencies (s : State) : (countDraw s).latencies = s.latencies := rfl
@[simp] theorem countDraw_draws (s : State) : (countDraw s).draws = s.draws + 1 := rfl

@[simp] theorem setOverrun_regs (s : State) :
    (setOverrun s).regs = { s.regs with status := { s.regs.status with ovr := true } } := rfl
@[simp] theorem setOverrun_engine (s : State) : (setOverrun s).engine = s.engine := rfl
@[simp] theorem setOverrun_mem (s : State) : (setOverrun s).mem = s.mem := rfl
@[simp] theorem setOverrun_rstN (s : State) : (setOverrun s).rstN = s.rstN := rfl
@[simp] theorem setOverrun_inputs (s : State) : (setOverrun s).inputs = s.inputs := rfl
@[simp] theorem setOverrun_responses (s : State) : (setOverrun s).responses = s.responses := rfl
@[simp] theorem setOverrun_latencies (s : State) : (setOverrun s).latencies = s.latencies := rfl
@[simp] theorem setOverrun_draws (s : State) : (setOverrun s).draws = s.draws := rfl

@[simp] theorem acceptCommand_regs (s : State) : (acceptCommand s).regs = s.regs := rfl
@[simp] theorem acceptCommand_engine (s : State) : (acceptCommand s).engine = s.engine := rfl
@[simp] theorem acceptCommand_mem (s : State) : (acceptCommand s).mem = s.mem := rfl
@[simp] theorem acceptCommand_rstN (s : State) : (acceptCommand s).rstN = s.rstN := rfl
@[simp] theorem acceptCommand_inputs (s : State) : (acceptCommand s).inputs = s.inputs.tail := rfl
@[simp] theorem acceptCommand_responses (s : State) : (acceptCommand s).responses = .ok :: s.responses := rfl
@[simp] theorem acceptCommand_latencies (s : State) : (acceptCommand s).latencies = s.latencies.tail := rfl
@[simp] theorem acceptCommand_draws (s : State) : (acceptCommand s).draws = s.draws + 1 := rfl

@[simp] theorem captureCodec_regs (t : CodecTuple) (s : State) :
    (captureCodec t s).regs = { s.regs with codec := some t } := rfl
@[simp] theorem captureCodec_engine (t : CodecTuple) (s : State) : (captureCodec t s).engine = s.engine := rfl
@[simp] theorem captureCodec_mem (t : CodecTuple) (s : State) :
    (captureCodec t s).mem =
      ((s.mem.storeBuf .alphaTo (antilogTable t.gfpoly)).storeBuf .indexOf (logTable t.gfpoly)).storeBuf .genPoly t.genpolyTable := rfl
@[simp] theorem captureCodec_rstN (t : CodecTuple) (s : State) : (captureCodec t s).rstN = s.rstN := rfl
@[simp] theorem captureCodec_inputs (t : CodecTuple) (s : State) : (captureCodec t s).inputs = s.inputs := rfl
@[simp] theorem captureCodec_responses (t : CodecTuple) (s : State) :
    (captureCodec t s).responses = s.responses := rfl
@[simp] theorem captureCodec_latencies (t : CodecTuple) (s : State) :
    (captureCodec t s).latencies = s.latencies := rfl
@[simp] theorem captureCodec_draws (t : CodecTuple) (s : State) : (captureCodec t s).draws = s.draws := rfl

@[simp] theorem invalidateCodec_regs (s : State) : (invalidateCodec s).regs = { s.regs with codec := none } := rfl
@[simp] theorem invalidateCodec_engine (s : State) : (invalidateCodec s).engine = s.engine := rfl
@[simp] theorem invalidateCodec_mem (s : State) : (invalidateCodec s).mem = clearTables s.mem := rfl
@[simp] theorem invalidateCodec_rstN (s : State) : (invalidateCodec s).rstN = s.rstN := rfl
@[simp] theorem invalidateCodec_inputs (s : State) : (invalidateCodec s).inputs = s.inputs := rfl
@[simp] theorem invalidateCodec_responses (s : State) : (invalidateCodec s).responses = s.responses := rfl
@[simp] theorem invalidateCodec_latencies (s : State) : (invalidateCodec s).latencies = s.latencies := rfl
@[simp] theorem invalidateCodec_draws (s : State) : (invalidateCodec s).draws = s.draws := rfl

@[simp] theorem blockEncodeBody_regs (g : Geometry) (s : State) :
    (blockEncodeBody g s).regs = { s.regs with cwLen := BitVec.ofNat 12 g.total } := rfl
@[simp] theorem blockEncodeBody_engine (g : Geometry) (s : State) : (blockEncodeBody g s).engine = s.engine := rfl
@[simp] theorem blockEncodeBody_mem (g : Geometry) (s : State) :
    (blockEncodeBody g s).mem =
      s.mem.storeBuf .cwBuf (codewordStream (s.regs.blockSpec g) (s.mem.readBuf .dataBuf 0 (s.regs.blockSpec g).data)) := rfl
@[simp] theorem blockEncodeBody_rstN (g : Geometry) (s : State) : (blockEncodeBody g s).rstN = s.rstN := rfl
@[simp] theorem blockEncodeBody_inputs (g : Geometry) (s : State) : (blockEncodeBody g s).inputs = s.inputs := rfl
@[simp] theorem blockEncodeBody_responses (g : Geometry) (s : State) :
    (blockEncodeBody g s).responses = s.responses := rfl
@[simp] theorem blockEncodeBody_latencies (g : Geometry) (s : State) :
    (blockEncodeBody g s).latencies = s.latencies := rfl
@[simp] theorem blockEncodeBody_draws (g : Geometry) (s : State) : (blockEncodeBody g s).draws = s.draws := rfl

@[simp] theorem frameInitBody_regs (g : Geometry) (s : State) : (frameInitBody g s).regs = clearSelValid s.regs := rfl
@[simp] theorem frameInitBody_engine (g : Geometry) (s : State) : (frameInitBody g s).engine = s.engine := rfl
@[simp] theorem frameInitBody_mem (g : Geometry) (s : State) :
    (frameInitBody g s).mem = s.mem.storeBuf .grid (skeleton g) := rfl
@[simp] theorem frameInitBody_rstN (g : Geometry) (s : State) : (frameInitBody g s).rstN = s.rstN := rfl
@[simp] theorem frameInitBody_inputs (g : Geometry) (s : State) : (frameInitBody g s).inputs = s.inputs := rfl
@[simp] theorem frameInitBody_responses (g : Geometry) (s : State) :
    (frameInitBody g s).responses = s.responses := rfl
@[simp] theorem frameInitBody_latencies (g : Geometry) (s : State) :
    (frameInitBody g s).latencies = s.latencies := rfl
@[simp] theorem frameInitBody_draws (g : Geometry) (s : State) : (frameInitBody g s).draws = s.draws := rfl

@[simp] theorem framePlaceBody_regs (g : Geometry) (s : State) :
    (framePlaceBody g s).regs = clearSelValid s.regs := rfl
@[simp] theorem framePlaceBody_engine (g : Geometry) (s : State) : (framePlaceBody g s).engine = s.engine := rfl
@[simp] theorem framePlaceBody_mem (g : Geometry) (s : State) :
    (framePlaceBody g s).mem =
      s.mem.storeBuf .grid (placedFrame g.width (bitStream (s.mem.readBuf .cwBuf 0 g.total)) (s.mem.gridCells g)) := rfl
@[simp] theorem framePlaceBody_rstN (g : Geometry) (s : State) : (framePlaceBody g s).rstN = s.rstN := rfl
@[simp] theorem framePlaceBody_inputs (g : Geometry) (s : State) : (framePlaceBody g s).inputs = s.inputs := rfl
@[simp] theorem framePlaceBody_responses (g : Geometry) (s : State) :
    (framePlaceBody g s).responses = s.responses := rfl
@[simp] theorem framePlaceBody_latencies (g : Geometry) (s : State) :
    (framePlaceBody g s).latencies = s.latencies := rfl
@[simp] theorem framePlaceBody_draws (g : Geometry) (s : State) : (framePlaceBody g s).draws = s.draws := rfl

@[simp] theorem writeResult_regs (g : Geometry) (m : BitVec 3) (board : Vector ScoreEntry 8) (cells : List Byte) (s : State) :
    (writeResult g m board cells s).regs =
      { s.regs with score := board, format := formatWord s.regs.level m, sel := ⟨m, true⟩ } := rfl
@[simp] theorem writeResult_engine (g : Geometry) (m : BitVec 3) (board : Vector ScoreEntry 8) (cells : List Byte) (s : State) :
    (writeResult g m board cells s).engine =
      s.engine := rfl
@[simp] theorem writeResult_mem (g : Geometry) (m : BitVec 3) (board : Vector ScoreEntry 8) (cells : List Byte) (s : State) :
    (writeResult g m board cells s).mem =
      s.mem.storeBuf .out ((candidate g.width s.regs.level m cells).map outByte) := rfl
@[simp] theorem writeResult_rstN (g : Geometry) (m : BitVec 3) (board : Vector ScoreEntry 8) (cells : List Byte) (s : State) :
    (writeResult g m board cells s).rstN =
      s.rstN := rfl
@[simp] theorem writeResult_inputs (g : Geometry) (m : BitVec 3) (board : Vector ScoreEntry 8) (cells : List Byte) (s : State) :
    (writeResult g m board cells s).inputs =
      s.inputs := rfl
@[simp] theorem writeResult_responses (g : Geometry) (m : BitVec 3) (board : Vector ScoreEntry 8) (cells : List Byte) (s : State) :
    (writeResult g m board cells s).responses =
      s.responses := rfl
@[simp] theorem writeResult_latencies (g : Geometry) (m : BitVec 3) (board : Vector ScoreEntry 8) (cells : List Byte) (s : State) :
    (writeResult g m board cells s).latencies =
      s.latencies := rfl
@[simp] theorem writeResult_draws (g : Geometry) (m : BitVec 3) (board : Vector ScoreEntry 8) (cells : List Byte) (s : State) :
    (writeResult g m board cells s).draws =
      s.draws := rfl

@[simp] theorem softResetBody_regs (s : State) : (softResetBody s).regs = softResetRegs s.regs := rfl
@[simp] theorem softResetBody_engine (s : State) : (softResetBody s).engine = s.engine := rfl
@[simp] theorem softResetBody_mem (s : State) : (softResetBody s).mem = clearTables s.mem := rfl
@[simp] theorem softResetBody_rstN (s : State) : (softResetBody s).rstN = s.rstN := rfl
@[simp] theorem softResetBody_inputs (s : State) : (softResetBody s).inputs = s.inputs := rfl
@[simp] theorem softResetBody_responses (s : State) : (softResetBody s).responses = s.responses := rfl
@[simp] theorem softResetBody_latencies (s : State) : (softResetBody s).latencies = s.latencies := rfl
@[simp] theorem softResetBody_draws (s : State) : (softResetBody s).draws = s.draws := rfl

@[simp] theorem status_issued_done (st : Status) (op : BitVec 4) : (st.issued op).done = false := rfl
@[simp] theorem status_issued_err (st : Status) (op : BitVec 4) : (st.issued op).err = false := rfl
@[simp] theorem status_issued_ovr (st : Status) (op : BitVec 4) : (st.issued op).ovr = st.ovr := rfl
@[simp] theorem status_issued_errcode (st : Status) (op : BitVec 4) : (st.issued op).errcode = 0#4 := rfl
@[simp] theorem status_issued_lastop (st : Status) (op : BitVec 4) : (st.issued op).lastop = op := rfl

@[simp] theorem status_completed_done (st : Status) : (st.completed).done = true := rfl
@[simp] theorem status_completed_err (st : Status) : (st.completed).err = false := rfl
@[simp] theorem status_completed_ovr (st : Status) : (st.completed).ovr = st.ovr := rfl
@[simp] theorem status_completed_errcode (st : Status) : (st.completed).errcode = 0#4 := rfl
@[simp] theorem status_completed_lastop (st : Status) : (st.completed).lastop = st.lastop := rfl

@[simp] theorem status_failed_done (st : Status) (e : CmdError) : (st.failed e).done = true := rfl
@[simp] theorem status_failed_err (st : Status) (e : CmdError) : (st.failed e).err = true := rfl
@[simp] theorem status_failed_ovr (st : Status) (e : CmdError) : (st.failed e).ovr = st.ovr := rfl
@[simp] theorem status_failed_errcode (st : Status) (e : CmdError) : (st.failed e).errcode = e.code := rfl
@[simp] theorem status_failed_lastop (st : Status) (e : CmdError) : (st.failed e).lastop = st.lastop := rfl

@[simp] theorem status_written_done (st : Status) (v : Word) : (st.written v).done = (st.done && !v.getLsbD 1) := rfl
@[simp] theorem status_written_err (st : Status) (v : Word) : (st.written v).err = st.err := rfl
@[simp] theorem status_written_ovr (st : Status) (v : Word) : (st.written v).ovr = (st.ovr && !v.getLsbD 3) := rfl
@[simp] theorem status_written_errcode (st : Status) (v : Word) : (st.written v).errcode = st.errcode := rfl
@[simp] theorem status_written_lastop (st : Status) (v : Word) : (st.written v).lastop = st.lastop := rfl

@[simp] theorem clearSelValid_status (r : Regs) : (clearSelValid r).status = r.status := rfl
@[simp] theorem clearSelValid_config (r : Regs) : (clearSelValid r).config = r.config := rfl
@[simp] theorem clearSelValid_dataLen (r : Regs) : (clearSelValid r).dataLen = r.dataLen := rfl
@[simp] theorem clearSelValid_cwLen (r : Regs) : (clearSelValid r).cwLen = r.cwLen := rfl
@[simp] theorem clearSelValid_format (r : Regs) : (clearSelValid r).format = r.format := rfl
@[simp] theorem clearSelValid_irqEn (r : Regs) : (clearSelValid r).irqEn = r.irqEn := rfl
@[simp] theorem clearSelValid_rsPoly (r : Regs) : (clearSelValid r).rsPoly = r.rsPoly := rfl
@[simp] theorem clearSelValid_rsFcr (r : Regs) : (clearSelValid r).rsFcr = r.rsFcr := rfl
@[simp] theorem clearSelValid_rsPrim (r : Regs) : (clearSelValid r).rsPrim = r.rsPrim := rfl
@[simp] theorem clearSelValid_rsNroots (r : Regs) : (clearSelValid r).rsNroots = r.rsNroots := rfl
@[simp] theorem clearSelValid_rsPad (r : Regs) : (clearSelValid r).rsPad = r.rsPad := rfl
@[simp] theorem clearSelValid_rsSrc (r : Regs) : (clearSelValid r).rsSrc = r.rsSrc := rfl
@[simp] theorem clearSelValid_codec (r : Regs) : (clearSelValid r).codec = r.codec := rfl
@[simp] theorem clearSelValid_score (r : Regs) : (clearSelValid r).score = r.score := rfl
@[simp] theorem clearSelValid_sel (r : Regs) : (clearSelValid r).sel = ⟨r.sel.mask, false⟩ := rfl

end Sys2Proof.Machine
end

