-- ==== Sys2Proof/Laws/Exec.lean ====
section
/-! SUPPORT. What a command's meaning can answer, case by case, and what no command touches: the provers cite these
instead of unfolding a meaning. -/

namespace Sys2Proof.Machine

/-- Issuing a command twice is issuing it once: a BUSY command that completes runs its whole rule (R137). -/
theorem issue_issue (i : Instr) (m n : Nat) (s : State) : issue i n (issue i m s) = issue i n s := rfl

/-- The state a command leaves. -/
def resultOf (i : Instr) (s : State) : State :=
  match i with
  | .nop => complete (issue .nop 0 s)
  | .rsInit => rsInit (issue .rsInit 0 s)
  | .rsEncode => rsEncode (issue .rsEncode 0 s)
  | .blockEncode => blockEncode (issue .blockEncode 0 s)
  | .frameInit => frameInit (issue .frameInit 0 s)
  | .framePlace => framePlace (issue .framePlace 0 s)
  | .maskApply m => maskApply m (issue (.maskApply m) 0 s)
  | .maskEval => maskEval (issue .maskEval 0 s)
  | .encodeSymbol => encodeSymbol (issue .encodeSymbol 0 s)
  | .reserved9 => reservedCommand .reserved9 s
  | .reservedA => reservedCommand .reservedA s
  | .reservedB => reservedCommand .reservedB s
  | .reservedC => reservedCommand .reservedC s
  | .reservedD => reservedCommand .reservedD s
  | .reservedE => reservedCommand .reservedE s
  | .softReset => complete (softResetBody (issue .softReset 0 s))

/-- Every command answers a next state. -/
theorem exec_eq (i : Instr) (s : State) : exec i s = .next (resultOf i s) := by cases i <;> rfl

/-- RS_INIT, both cases (R85). -/
theorem rsInit_cases (s : State) :
    (s.regs.programmedTuple.valid = true ∧ rsInit s = complete (captureCodec s.regs.programmedTuple s)) ∨
    (s.regs.programmedTuple.valid = false ∧ rsInit s = raise .invalidRSParameters (invalidateCodec s)) := by
  unfold rsInit
  cases h : s.regs.programmedTuple.valid <;> simp [h]

/-- RS_ENCODE, its three cases (R89). -/
theorem rsEncode_cases (s : State) :
    (s.regs.codec = none ∧ rsEncode s = raise .notReady s) ∨
    (∃ t, s.regs.codec = some t ∧ 4096 < s.regs.rsSrc.toNat + t.k ∧ rsEncode s = raise .rangeError s) ∨
    (∃ t, s.regs.codec = some t ∧ s.regs.rsSrc.toNat + t.k ≤ 4096 ∧
      rsEncode s = complete { s with mem := s.mem.storeBuf .parBuf (capturedParity t s) }) := by
  unfold rsEncode
  cases h : s.regs.codec with
  | none => simp
  | some t =>
    by_cases hk : 4096 < s.regs.rsSrc.toNat + t.k
    · simp [hk]
    · simp [hk, Nat.not_lt.mp hk]

/-- BLOCK_ENCODE, its three cases (R98). -/
theorem blockEncode_cases (s : State) :
    (s.regs.geometry = none ∧ blockEncode s = raise .invalidVersion s) ∨
    (∃ g, s.regs.geometry = some g ∧ lengthMatches g s = false ∧ blockEncode s = raise .lengthMismatch s) ∨
    (∃ g, s.regs.geometry = some g ∧ lengthMatches g s = true ∧ blockEncode s = complete (blockEncodeBody g s)) := by
  unfold blockEncode
  cases h : s.regs.geometry with
  | none => simp
  | some g => cases hl : lengthMatches g s <;> simp [hl]

/-- FRAME_INIT, both cases (R107). -/
theorem frameInit_cases (s : State) :
    (s.regs.geometry = none ∧ frameInit s = raise .invalidVersion s) ∨
    (∃ g, s.regs.geometry = some g ∧ frameInit s = complete (frameInitBody g s)) := by
  unfold frameInit
  cases h : s.regs.geometry <;> simp

/-- FRAME_PLACE, both cases (R112). -/
theorem framePlace_cases (s : State) :
    (s.regs.geometry = none ∧ framePlace s = raise .invalidVersion s) ∨
    (∃ g, s.regs.geometry = some g ∧ framePlace s = complete (framePlaceBody g s)) := by
  unfold framePlace
  cases h : s.regs.geometry <;> simp

/-- MASK_APPLY, both cases (R126). -/
theorem maskApply_cases (m : BitVec 3) (s : State) :
    (s.regs.geometry = none ∧ maskApply m s = raise .invalidVersion s) ∨
    (∃ g, s.regs.geometry = some g ∧ maskApply m s = complete (maskApplyBody g m s)) := by
  unfold maskApply
  cases h : s.regs.geometry <;> simp

/-- MASK_EVAL, its three cases (R127). -/
theorem maskEval_cases (s : State) :
    (s.regs.geometry = none ∧ maskEval s = raise .invalidVersion s) ∨
    (∃ g, s.regs.geometry = some g ∧ s.regs.config.maskEn = 0#8 ∧ maskEval s = raise .noMaskCandidate s) ∨
    (∃ g, s.regs.geometry = some g ∧ s.regs.config.maskEn ≠ 0#8 ∧ maskEval s = complete (maskEvalBody g s)) := by
  unfold maskEval
  cases h : s.regs.geometry with
  | none => simp
  | some g => by_cases hm : s.regs.config.maskEn = 0#8 <;> simp [hm]

/-- ENCODE, its four cases (R129). -/
theorem encodeSymbol_cases (s : State) :
    (s.regs.geometry = none ∧ encodeSymbol s = raise .invalidVersion s) ∨
    (∃ g, s.regs.geometry = some g ∧ lengthMatches g s = false ∧ encodeSymbol s = raise .lengthMismatch s) ∨
    (∃ g, s.regs.geometry = some g ∧ lengthMatches g s = true ∧ s.regs.config.maskEn = 0#8 ∧
      encodeSymbol s = raise .noMaskCandidate s) ∨
    (∃ g, s.regs.geometry = some g ∧ lengthMatches g s = true ∧ s.regs.config.maskEn ≠ 0#8 ∧
      encodeSymbol s = complete (encodeBody g s)) := by
  unfold encodeSymbol
  cases h : s.regs.geometry with
  | none => simp
  | some g =>
    cases hl : lengthMatches g s
    · simp [hl]
    · by_cases hm : s.regs.config.maskEn = 0#8 <;> simp [hl, hm]

/-- What the issue of a command leaves to the command: every register but STATUS, and the memory. -/
@[simp] theorem issue_geometry (i : Instr) (n : Nat) (s : State) : (issue i n s).regs.geometry = s.regs.geometry := rfl

@[simp] theorem issue_level (i : Instr) (n : Nat) (s : State) : (issue i n s).regs.level = s.regs.level := rfl

@[simp] theorem issue_blockSpec (i : Instr) (n : Nat) (s : State) (g : Geometry) :
    (issue i n s).regs.blockSpec g = s.regs.blockSpec g := rfl

@[simp] theorem issue_lengthMatches (i : Instr) (n : Nat) (s : State) (g : Geometry) :
    lengthMatches g (issue i n s) = lengthMatches g s := rfl

@[simp] theorem issue_programmedTuple (i : Instr) (n : Nat) (s : State) :
    (issue i n s).regs.programmedTuple = s.regs.programmedTuple := rfl

@[simp] theorem issue_capturedParity (i : Instr) (n : Nat) (s : State) (t : CodecTuple) :
    capturedParity t (issue i n s) = capturedParity t s := rfl

/-- No command touches the ports and the outside, and every command leaves the engine IDLE (R138). -/
theorem exec_ports (i : Instr) (s t : State) (h : exec i s = .next t) :
    t.engine = .idle ∧ t.rstN = s.rstN ∧ t.inputs = s.inputs ∧ t.responses = s.responses ∧
      t.latencies = s.latencies ∧ t.draws = s.draws := by
  rw [exec_eq] at h
  injection h with h
  subst h
  cases i <;> simp only [resultOf, reservedCommand]
  case rsInit => rcases rsInit_cases (issue .rsInit 0 s) with ⟨-, h⟩ | ⟨-, h⟩ <;> simp [h]
  case rsEncode =>
    rcases rsEncode_cases (issue .rsEncode 0 s) with ⟨-, h⟩ | ⟨_, -, -, h⟩ | ⟨_, -, -, h⟩ <;> simp [h]
  case blockEncode =>
    rcases blockEncode_cases (issue .blockEncode 0 s) with ⟨-, h⟩ | ⟨_, -, -, h⟩ | ⟨_, -, -, h⟩ <;> simp [h]
  case frameInit => rcases frameInit_cases (issue .frameInit 0 s) with ⟨-, h⟩ | ⟨_, -, h⟩ <;> simp [h]
  case framePlace => rcases framePlace_cases (issue .framePlace 0 s) with ⟨-, h⟩ | ⟨_, -, h⟩ <;> simp [h]
  case maskApply m =>
    rcases maskApply_cases m (issue (.maskApply m) 0 s) with ⟨-, h⟩ | ⟨_, -, h⟩ <;> simp [h, maskApplyBody]
  case maskEval =>
    rcases maskEval_cases (issue .maskEval 0 s) with ⟨-, h⟩ | ⟨_, -, -, h⟩ | ⟨_, -, -, h⟩ <;> simp [h, maskEvalBody]
  case encodeSymbol =>
    rcases encodeSymbol_cases (issue .encodeSymbol 0 s) with
      ⟨-, h⟩ | ⟨_, -, -, h⟩ | ⟨_, -, -, -, h⟩ | ⟨_, -, -, -, h⟩ <;> simp [h, encodeBody, maskEvalBody]
  all_goals simp

end Sys2Proof.Machine
end

