-- ==== Sys2Proof/Laws/Lengths.lean ====
section
/-! SUPPORT. How long the byte lists are that the commands write, and their entries. -/

namespace Sys2Proof.Machine

@[simp] theorem length_gridOf {α : Type} (w : Nat) (f : Nat → Nat → α) : (gridOf w f).length = w * w := by
  simp [gridOf]

/-- The row-major index of a cell is inside the grid (R43). -/
theorem cellIndex_lt {w x y : Nat} (hx : x < w) (hy : y < w) : y * w + x < w * w := by
  calc y * w + x < y * w + w := by omega
    _ = (y + 1) * w := by ring
    _ ≤ w * w := Nat.mul_le_mul_right w hy

/-- A grid's entry at `y·w + x` is its function's value at (x, y) (R43). -/
theorem getElem_gridOf {α : Type} (w : Nat) (f : Nat → Nat → α) (x y : Nat) (hx : x < w)
    (h : y * w + x < (gridOf w f).length) : (gridOf w f)[y * w + x] = f x y := by
  have hw : 0 < w := by omega
  have h1 : (y * w + x) % w = x := by
    rw [Nat.add_comm, Nat.add_mul_mod_self_right, Nat.mod_eq_of_lt hx]
  have h2 : (y * w + x) / w = y := by
    rw [Nat.add_comm, Nat.add_mul_div_right _ _ hw, Nat.div_eq_of_lt hx, Nat.zero_add]
  simp [gridOf, h1, h2]

@[simp] theorem length_skeleton (g : Geometry) : (skeleton g).length = g.modules := by
  simp [skeleton, Geometry.modules]

@[simp] theorem length_placeBits (ks : List Nat) (bits : List Bool) (cells : List Byte) :
    (placeBits ks bits cells).length = cells.length := by
  induction ks generalizing bits cells with
  | nil => rfl
  | cons k ks ih =>
    unfold placeBits
    split <;> simp [ih]

@[simp] theorem length_placedFrame (w : Nat) (bits : List Bool) (cells : List Byte) :
    (placedFrame w bits cells).length = cells.length := by
  simp [placedFrame]

@[simp] theorem length_gridCells (m : Memory) (g : Geometry) : (m.gridCells g).length = g.modules := by
  simp [Memory.gridCells]

@[simp] theorem length_candidate (w : Nat) (lvl : Level) (m : BitVec 3) (cells : List Byte) :
    (candidate w lvl m cells).length = cells.length := by
  simp [candidate]

/-- The candidate of the cells of GRID, module by module (R116). -/
theorem candidate_gridCells (m : Memory) (g : Geometry) (lvl : Level) (k : BitVec 3) :
    candidate g.width lvl k (m.gridCells g) = gridOf g.width fun x y =>
      candidateBit g.width (formatWord lvl k) k x y (m.read (regionBase .grid + y * g.width + x)) := by
  apply List.ext_getElem
  · simp [Geometry.modules]
  · intro n h1 h2
    have hd : n / g.width * g.width + n % g.width = n := by
      rw [Nat.mul_comm]
      exact Nat.div_add_mod n g.width
    simp [candidate, gridOf, Memory.gridCells, Memory.readBuf, Memory.readBlock, Nat.add_assoc, hd]

@[simp] theorem length_xorBytes (a b : List Byte) : (xorBytes a b).length = min a.length b.length := by
  simp [xorBytes]

@[simp] theorem length_mulRoot (mul : Byte → Byte → Byte) (r : Byte) (g : List Byte) :
    (mulRoot mul r g).length = g.length + 1 := by
  simp [mulRoot]

/-- A generator polynomial of degree n has n + 1 coefficients (R84). -/
@[simp] theorem length_generator (t : GfTables) (fcr prim n : Nat) : (generator t fcr prim n).length = n + 1 := by
  induction n with
  | zero => rfl
  | succ n ih => simp [generator, ih]

/-- The shift register keeps its length (R87). -/
theorem length_shiftRegister (mul : Byte → Byte → Byte) (gTop par data : List Byte) (h : par.length = gTop.length)
    (hn : 0 < gTop.length) : (shiftRegister mul gTop par data).length = gTop.length := by
  induction data generalizing par with
  | nil => exact h
  | cons d ds ih =>
    refine ih _ ?_
    simp [shiftStep, h]
    omega

/-- The parity of a block is n bytes long (R87). -/
theorem length_parity (mul : Byte → Byte → Byte) (n : Nat) (g data : List Byte) (hg : n ≤ g.length) (hn : 0 < n) :
    (parity mul n g data).length = n := by
  have hl : (lowerHighFirst n g).length = n := by simp [lowerHighFirst, hg]
  unfold parity
  rw [length_shiftRegister] <;> simp [hl, hn]

/-- The parity of a block of the QR path is ECC bytes long (R94). -/
theorem length_qrParity (ecc : Nat) (block : List Byte) (h : 0 < ecc) : (qrParity ecc block).length = ecc :=
  length_parity _ _ _ _ (by simp [qrGenerator]) h

@[simp] theorem length_powersOf (P : BitVec 9) (n : Nat) (s : Byte) : (powersOf P n s).length = n := by
  induction n generalizing s with
  | zero => rfl
  | succ n ih => simp [powersOf, ih]

@[simp] theorem length_antilogTable (P : BitVec 9) : (antilogTable P).length = 256 := by
  simp [antilogTable, fieldSequence]

@[simp] theorem length_logTable (P : BitVec 9) : (logTable P).length = 256 := by simp [logTable]

/-- GENPOLY has 256 entries (R41). -/
@[simp] theorem length_genpolyTable (t : CodecTuple) : t.genpolyTable.length = 256 := by
  have := t.nroots.isLt
  simp only [CodecTuple.genpolyTable, CodecTuple.generator, List.length_append, length_generator,
    List.length_replicate]
  omega

/-- The sequence of powers, entry by entry (R81). -/
theorem getElem_powersOf (P : BitVec 9) (n : Nat) (s : Byte) (k : Nat) (h : k < (powersOf P n s).length) :
    (powersOf P n s)[k] = (timesX P)^[k] s := by
  induction n generalizing s k with
  | zero => simp [powersOf] at h
  | succ n ih =>
    cases k with
    | zero => rfl
    | succ k =>
      simp only [powersOf, List.getElem_cons_succ, Function.iterate_succ, Function.comp]
      exact ih _ _ _

/-- How many bytes a round-robin gives when every block has at most `cols` bytes (R97). -/
theorem length_interleave (cols : Nat) (blocks : List (List Byte)) (h : ∀ b ∈ blocks, b.length ≤ cols) :
    (interleave cols blocks).length = (blocks.map List.length).sum := by
  induction blocks with
  | nil => simp [interleave]
  | cons b bs ih =>
    have hb := h b (by simp)
    have ih' := ih fun c hc => h c (by simp [hc])
    have key : ∀ n, ((List.range n).map fun c => ((b :: bs).filterMap fun b => b[c]?).length).sum =
        min n b.length + ((List.range n).map fun c => (bs.filterMap fun b => b[c]?).length).sum := by
      intro n
      induction n with
      | zero => simp
      | succ n ihn =>
        rw [List.range_succ, List.map_append, List.map_append, List.sum_append, List.sum_append, ihn]
        by_cases hn : n < b.length
        · simp [List.getElem?_eq_getElem hn]
          omega
        · simp [List.getElem?_eq_none (Nat.not_lt.mp hn)]
          omega
    simp only [interleave, List.length_flatMap] at ih' ⊢
    rw [key, ih']
    simp [Nat.min_eq_right hb]

end Sys2Proof.Machine
end

