-- ==== Sys2Proof/Laws/PerInstr.lean ====
section
/-! SUPPORT. What holds of every command as syntax, one lemma per constructor: where its encoding puts its fields
(30_encoding.md R69, R70). -/

namespace Sys2Proof.Laws.EncodedFields

/-- The command word of a command has its opcode in bits 3:0 and its mask in bits 10:8, every ignored bit is 0, and it
decodes to the command (R69, R70, R79). -/
def Statement (i : Instr) : Prop :=
  (encode i).extractLsb' 0 4 = i.opcode ∧ (encode i).extractLsb' 8 3 = i.maskOperand ∧
    (encode i).extractLsb' 4 4 = 0#4 ∧ (encode i).extractLsb' 11 21 = 0#21 ∧ decode (encode i) = i

theorem nop : Statement .nop := by unfold Statement; decide
theorem rsInit : Statement .rsInit := by unfold Statement; decide
theorem rsEncode : Statement .rsEncode := by unfold Statement; decide
theorem blockEncode : Statement .blockEncode := by unfold Statement; decide
theorem frameInit : Statement .frameInit := by unfold Statement; decide
theorem framePlace : Statement .framePlace := by unfold Statement; decide
theorem maskApply (m : BitVec 3) : Statement (.maskApply m) := by
  unfold Statement
  revert m
  decide
theorem maskEval : Statement .maskEval := by unfold Statement; decide
theorem encodeSymbol : Statement .encodeSymbol := by unfold Statement; decide
theorem reserved9 : Statement .reserved9 := by unfold Statement; decide
theorem reservedA : Statement .reservedA := by unfold Statement; decide
theorem reservedB : Statement .reservedB := by unfold Statement; decide
theorem reservedC : Statement .reservedC := by unfold Statement; decide
theorem reservedD : Statement .reservedD := by unfold Statement; decide
theorem reservedE : Statement .reservedE := by unfold Statement; decide
theorem softReset : Statement .softReset := by unfold Statement; decide

end Sys2Proof.Laws.EncodedFields
end

