-- ==== Sys2Proof/Laws/Rules.lean ====
section
/-! SUPPORT. The model's functions and the same notions in the rules' own terms (Safety.lean): the field sequence, the
masks, the candidate's modules and the penalty rules. -/

namespace Sys2Proof.Machine

/-- Multiplication by x on bytes is the step of R81 on numbers. -/
theorem timesX_toNat (P : BitVec 9) (s : Byte) : (timesX P s).toNat = fieldStep P s.toNat := by
  have key : ∀ s : Byte, s.getLsbD 7 = decide (128 ≤ s.toNat) := by decide
  have hx : ∀ s : Byte, (s <<< 1).toNat = 2 * s.toNat % 256 := by
    intro s
    rw [BitVec.toNat_shiftLeft, Nat.shiftLeft_eq, Nat.mul_comm]
  have hm : ∀ a b : Nat, (a ^^^ b) % 256 = a % 256 ^^^ b % 256 := by
    intro a b
    exact Nat.xor_mod_two_pow (n := 8)
  unfold timesX fieldStep
  rw [key, hm, BitVec.toNat_xor, hx]
  by_cases h : 128 ≤ s.toNat <;> simp [h]

/-- The sequence of R81 on bytes and on numbers. -/
theorem iterate_timesX_toNat (P : BitVec 9) (i : Nat) : ((timesX P)^[i] 1#8).toNat = fieldPower P i := by
  induction i with
  | zero => rfl
  | succ i ih =>
    unfold fieldPower at ih ⊢
    rw [Function.iterate_succ_apply', Function.iterate_succ_apply', timesX_toNat, ih]

/-- The k-th element of the field sequence is `s_k` (R81). -/
theorem getElem_fieldSequence (P : BitVec 9) (k : Nat) (h : k < (fieldSequence P).length) :
    (fieldSequence P)[k].toNat = fieldPower P k := by
  rw [← iterate_timesX_toNat]
  exact congrArg BitVec.toNat (getElem_powersOf P 256 1#8 k h)

/-- Which polynomials are primitive (R81). -/
theorem primitive_iff (P : BitVec 9) :
    primitive P = true ↔ (∀ i < 255, fieldPower P i ≠ 0) ∧
      (∀ i j, i < j → j < 255 → fieldPower P i ≠ fieldPower P j) ∧ fieldPower P 255 = 1 := by
  have hlen : (fieldSequence P).length = 256 := by rw [fieldSequence, length_powersOf]
  have hlt : ∀ i, i < 255 → i < (fieldSequence P).length := by omega
  have htake : ((fieldSequence P).take 255).length = 255 := by simp [hlen]
  have hlast : ((fieldSequence P).getD 255 0#8 == 1#8) = true ↔ fieldPower P 255 = 1 := by
    rw [List.getD_eq_getElem _ _ (by omega), beq_iff_eq, ← getElem_fieldSequence P 255 (by omega)]
    exact ⟨fun h => by rw [h]; rfl, fun h => BitVec.eq_of_toNat_eq h⟩
  have hnodup : ((fieldSequence P).take 255).Nodup ↔ ∀ i j, i < j → j < 255 → fieldPower P i ≠ fieldPower P j := by
    rw [List.nodup_iff_pairwise_ne, List.pairwise_iff_getElem]
    constructor
    · intro h i j hij hj heq
      refine h i j (by omega) (by omega) hij (BitVec.eq_of_toNat_eq ?_)
      simpa [getElem_fieldSequence] using heq
    · intro h i j hi hj hij heq
      refine h i j hij (by omega) ?_
      simpa [getElem_fieldSequence] using congrArg BitVec.toNat heq
  have hne : ((fieldSequence P).take 255).all (fun b => b != 0#8) = true ↔ ∀ i < 255, fieldPower P i ≠ 0 := by
    rw [List.all_eq_true]
    constructor
    · intro h i hi heq
      have hb := h _ (List.getElem_mem (l := (fieldSequence P).take 255) (n := i) (by omega))
      rw [bne_iff_ne, List.getElem_take] at hb
      exact hb (BitVec.eq_of_toNat_eq ((getElem_fieldSequence P i (hlt i hi)).trans heq))
    · intro h b hb
      obtain ⟨i, hi, rfl⟩ := List.mem_iff_getElem.mp hb
      rw [bne_iff_ne, List.getElem_take]
      intro heq
      exact h i (by omega) ((getElem_fieldSequence P i (by omega)).symm.trans (congrArg BitVec.toNat heq))
  rw [← hne, ← hnodup, ← hlast]
  simp only [primitive, Bool.and_eq_true, decide_eq_true_eq]
  tauto

/-- The mask functions are the table of R113. -/
theorem maskBit_iff (m : BitVec 3) (x y : Nat) : maskBit m x y = true ↔ Inverted m x y := by
  have h : m = 0 ∨ m = 1 ∨ m = 2 ∨ m = 3 ∨ m = 4 ∨ m = 5 ∨ m = 6 ∨ m = 7 := by
    revert m
    decide
  rcases h with rfl | rfl | rfl | rfl | rfl | rfl | rfl | rfl <;> simp [maskBit, Inverted]

/-- A format bit's index is found at its first copy (R115). -/
theorem formatBitIndex_first {w i : Nat} (h : i < 15) :
    formatBitIndex w (formatFirstCopy i).1 (formatFirstCopy i).2 = some i := by
  interval_cases i <;> simp [formatBitIndex, formatFirstCopy]

/-- A format bit's index is found at its second copy (R115). -/
theorem formatBitIndex_second {w i : Nat} (hw : 21 ≤ w) (h : i < 15) :
    formatBitIndex w (formatSecondCopy w i).1 (formatSecondCopy w i).2 = some i := by
  unfold formatSecondCopy formatBitIndex
  by_cases h7 : i ≤ 7
  · have h1 : w - 1 - i ≠ 8 := by omega
    have h2 : ¬ w - 1 - i ≤ 5 := by omega
    have h3 : w - 1 - i ≠ 7 := by omega
    have h4 : w - 8 ≤ w - 1 - i ∧ w - 1 - i ≤ w - 1 := by omega
    simp only [h7, if_true, h1, if_false, h2, h3, h4, and_self, Option.some.injEq]
    omega
  · have h2 : ¬ w - 15 + i ≤ 5 := by omega
    have h3 : w - 15 + i ≠ 7 := by omega
    have h4 : w - 15 + i ≠ 8 := by omega
    have h5 : w - 7 ≤ w - 15 + i ∧ w - 15 + i ≤ w - 1 := by omega
    simp only [h7, if_false, if_true, h2, h3, h4, h5, and_self, Option.some.injEq]
    omega

/-- A cell with a format bit is one of the bit's two copies (R115). -/
theorem formatBitIndex_copy {w x y i : Nat} (hw : 21 ≤ w) (h : formatBitIndex w x y = some i) :
    i < 15 ∧ ((x, y) = formatFirstCopy i ∨ (x, y) = formatSecondCopy w i) := by
  unfold formatBitIndex at h
  split at h
  · subst x
    split at h
    · cases h
      exact ⟨by omega, .inl (by simp [formatFirstCopy, *])⟩
    split at h
    · cases h
      exact ⟨by omega, .inl (by simp [formatFirstCopy, *])⟩
    split at h
    · cases h
      exact ⟨by omega, .inl (by simp [formatFirstCopy, *])⟩
    split at h
    · cases h
      refine ⟨by omega, .inr ?_⟩
      rw [formatSecondCopy, if_neg (by omega)]
      congr 1
      omega
    · contradiction
  split at h
  · subst y
    split at h
    · cases h
      refine ⟨by omega, .inl ?_⟩
      rw [formatFirstCopy, if_neg (by omega), if_neg (by omega), if_neg (by omega), if_neg (by omega)]
      congr 1
      omega
    split at h
    · cases h
      exact ⟨by omega, .inl (by simp [formatFirstCopy, *])⟩
    split at h
    · cases h
      refine ⟨by omega, .inr ?_⟩
      rw [formatSecondCopy, if_pos (by omega)]
      congr 1
      omega
    · contradiction
  · contradiction

/-- The model's module rule gives the candidate of R116. -/
theorem isCandidate_candidateBit {w : Nat} (hw : 21 ≤ w) (fmt : BitVec 15) (m : BitVec 3) (cell : Nat → Nat → Byte) :
    IsCandidate w fmt m cell fun x y => candidateBit w fmt m x y (cell x y) := by
  constructor
  · intro i hi
    simp [candidateBit, formatBitIndex_first hi, formatBitIndex_second hw hi]
  · intro x y _ _ hne
    have hn : formatBitIndex w x y = none := by
      cases h : formatBitIndex w x y with
      | none => rfl
      | some i =>
        obtain ⟨hi, hc⟩ := formatBitIndex_copy hw h
        rcases hc with hc | hc
        · exact absurd hc (hne i hi).1
        · exact absurd hc (hne i hi).2
    simp only [candidateBit, hn, isFixed, isDark]
    constructor
    · intro hf
      simp [hf]
    · intro hf
      rw [← maskBit_iff]
      simp only [hf, Bool.false_eq_true, if_false]
      cases (cell x y).getLsbD 0 <;> cases maskBit m x y <;> simp

/-- Every version's width is at least 21 (R90). -/
theorem width_ge (g : Geometry) : 21 ≤ g.width := by simp [Geometry.width, width]

/-- Counting the numbers below n with a property. -/
theorem countP_range (n : Nat) (p : Nat → Bool) :
    (List.range n).countP p = ((Finset.range n).filter fun i => p i = true).card := by
  induction n with
  | zero => rfl
  | succ n ih =>
    rw [List.range_succ, List.countP_append, ih, Finset.range_add_one, Finset.filter_insert]
    by_cases h : p n = true <;> simp [h]

/-- The group test is R121's. -/
theorem finderLike_iff (RL : List Int) (i : Nat) : finderLike RL i = true ↔ FinderGroup RL i := by
  simp only [finderLike, lightMargin, FinderGroup, Bool.and_eq_true, Bool.or_eq_true, decide_eq_true_eq, beq_iff_eq]
  tauto

/-- Rule 3 of a line counts its groups (R121). -/
theorem lineRule3_eq (RL : List Int) :
    lineRule3 RL = 40 * ((Finset.range RL.length).filter (FinderGroup RL)).card := by
  rw [lineRule3, countP_range]
  simp only [finderLike_iff]

/-- Rule 1 of a line sums over its runs (R119). -/
theorem lineRule1_eq (RL : List Int) :
    (lineRule1 RL : Int) = (RL.map fun n => if 5 ≤ n then 3 + (n - 5) else 0).sum := by
  induction RL with
  | nil => rfl
  | cons n ns ih =>
    simp only [lineRule1, List.map_cons, List.sum_cons, Nat.cast_add] at ih ⊢
    rw [ih]
    congr 1
    split <;> omega

/-- The lines of a matrix given as a row-major list (R118). -/
theorem linesOf_gridOf (w : Nat) (C : Nat → Nat → Bool) : linesOf w (gridOf w C) = matrixLines w C := by
  have hrow : rowsOf w (gridOf w C) = (List.range w).map fun y => (List.range w).map fun x => C x y := by
    refine List.map_congr_left fun y hy => ?_
    have hy' := List.mem_range.mp hy
    have hle : y * w + w ≤ w * w := by
      calc y * w + w = (y + 1) * w := by ring
        _ ≤ w * w := Nat.mul_le_mul_right w hy'
    refine List.ext_getElem (by simp; omega) fun x hx _ => ?_
    have hxw : x < w := by
      simp only [List.length_take] at hx
      omega
    rw [List.getElem_take, List.getElem_drop, List.getElem_map, List.getElem_range]
    exact getElem_gridOf w C x y hxw _
  have hcol : columnsOf w (gridOf w C) = (List.range w).map fun x => (List.range w).map fun y => C x y := by
    refine List.map_congr_left fun x hx => ?_
    have hx' := List.mem_range.mp hx
    rw [hrow, List.map_map]
    refine List.map_congr_left fun y _ => ?_
    simp [List.getD_eq_getElem?_getD, hx']
  rw [linesOf, hrow, hcol, matrixLines]

end Sys2Proof.Machine
end

