-- ==== Sys2Proof/Laws/Step.lean ====
section
/-! SUPPORT. What one step can do, said once, and which accesses the address map gives a meaning: the provers cite
these instead of unfolding `step`, `target` or `regionOf`. -/

namespace Sys2Proof.Machine

/-- The register range is no memory (R53). -/
theorem regionOf_register {a : Nat} (h : a < 0x200) : regionOf a = none := by
  rw [regionOf, List.find?_eq_none]
  intro r _
  have hb : 0x1000 ≤ regionBase r := by cases r <;> decide
  simp only [inRegion, Bool.and_eq_true, decide_eq_true_eq]
  omega

/-- An unmapped byte is in no region (R53, R54). -/
theorem regionOf_unmapped {a : Nat} (h : Unmapped a) : regionOf a = none := by
  rw [regionOf, List.find?_eq_none]
  intro r _ hin
  have hb : regionBase r ≤ a ∧ a < regionBase r + regionSize r := by simpa [inRegion] using hin
  unfold Unmapped at h
  cases r <;> simp only [regionBase, regionSize] at hb <;> omega

/-- An access has a target exactly when the map gives it a meaning (R54 to R56). -/
theorem target_isSome (addr : Addr) (size : Size) : (target addr size).isSome = true ↔ LegalAccess addr.toNat size := by
  unfold target LegalAccess
  by_cases h : addr.toNat < 0x200
  · by_cases hs : size = .b4 ∧ addr.toNat % 4 = 0 <;> simp [h, hs, regionOf_register h]
  · cases hr : regionOf addr.toNat <;> simp [h]

/-- The target of a register access (R55). -/
theorem target_register {addr : Addr} {size : Size} {r : Reg} (h : target addr size = some (.register r)) :
    addr.toNat < 0x200 ∧ size = .b4 ∧ addr.toNat % 4 = 0 ∧ r = regAt addr.toNat := by
  unfold target at h
  split at h
  · split at h
    · rename_i h1 h2
      injection h with h
      injection h with h
      exact ⟨h1, h2.1, h2.2, h.symm⟩
    · contradiction
  · split at h
    · contradiction
    · split at h
      · injection h with h
        injection h
      · contradiction

/-- The target of a memory access (R56). -/
theorem target_memory {addr : Addr} {size : Size} {r : Region} (h : target addr size = some (.memory r)) :
    regionOf addr.toNat = some r ∧ addr.toNat % size.bytes = 0 := by
  unfold target at h
  split at h
  · split at h
    · injection h with h
      injection h
    · contradiction
  · split at h
    · contradiction
    · split at h
      · rename_i hr hm
        injection h with h
        injection h with h
        exact ⟨h ▸ hr, hm⟩
      · contradiction

/-- A memory access with a target, from its region and alignment (R56). -/
theorem target_of_region {addr : Addr} {size : Size} {r : Region} (hr : regionOf addr.toNat = some r) :
    target addr size = if addr.toNat % size.bytes = 0 then some (.memory r) else none := by
  have h : ¬ addr.toNat < 0x200 := by
    intro h
    rw [regionOf_register h] at hr
    contradiction
  simp [target, h, hr]

/-- An aligned access stays in its region (R56). -/
theorem aligned_in_region {a : Nat} {size : Size} {r : Region} (hr : regionOf a = some r) (hm : a % size.bytes = 0) :
    a + size.bytes ≤ regionBase r + regionSize r := by
  have := regionOf_eq_some hr
  cases size <;> cases r <;> simp only [Size.bytes, regionBase, regionSize] at * <;> omega

/-- A command with no step left runs and completes (R138). -/
theorem step_completes {s : State} {i : Instr} (h : s.engine = .busy i 0) : step s = exec i s := by
  simp [step, h]

/-- A step of a BUSY core that does not complete (R62, R139). -/
theorem step_busy {s : State} {i : Instr} {left : Nat} (h : s.engine = .busy i (left + 1)) :
    step s = .next (whileBusy i left s) := by
  simp [step, h]

/-- A step of an IDLE core that issues nothing. -/
theorem step_idle {s : State} (h : s.engine = .idle) (hc : issuedWord s = none) : step s = .next (whileIdle s) := by
  simp [step, h, hc]

/-- A read never issues a command. -/
theorem issuedWord_read {s : State} {addr : Addr} {size : Size} {rest : List Input}
    (h : s.inputs = .txn (.read addr size) :: rest) : issuedWord s = none := by
  simp [issuedWord, h]

/-- A write elsewhere than to CMD issues none. -/
theorem issuedWord_write {s : State} {addr : Addr} {size : Size} {data : Word} {rest : List Input}
    (h : s.inputs = .txn (.write addr size data) :: rest) (ht : target addr size ≠ some (.register .cmd)) :
    issuedWord s = none := by
  simp [issuedWord, h, ht]

/-- The input an IDLE core takes. -/
theorem whileIdle_cons {s : State} {n : Input} {rest : List Input} (h : s.inputs = n :: rest) :
    whileIdle s = inputIdle n { s with inputs := rest } := by
  simp [whileIdle, h]

/-- The input a BUSY core takes. -/
theorem whileBusy_cons {s : State} {i : Instr} {left : Nat} {n : Input} {rest : List Input} (h : s.inputs = n :: rest) :
    whileBusy i left s = inputBusy i n { s with inputs := rest, engine := .busy i left } := by
  simp [whileBusy, h]

/-- Everything a step can be: a completion, an input or a quiet moment while BUSY, an input or a quiet moment while
IDLE, an issue that completes at once, or an issue that leaves the core BUSY. -/
theorem step_cases {s t : State} (h : step s = .next t) :
    (∃ i, s.engine = .busy i 0 ∧ t = resultOf i s) ∨
    (∃ i left, s.engine = .busy i (left + 1) ∧ t = whileBusy i left s) ∨
    (s.engine = .idle ∧ issuedWord s = none ∧ t = whileIdle s) ∨
    (∃ c, s.engine = .idle ∧ issuedWord s = some c ∧ nextLatency s = 0 ∧
      t = resultOf (decode c) (acceptCommand s)) ∨
    (∃ c left, s.engine = .idle ∧ issuedWord s = some c ∧ nextLatency s = left + 1 ∧
      t = issue (decode c) (left + 1) (acceptCommand s)) := by
  unfold step at h
  split at h
  · rename_i i he
    rw [exec_eq] at h
    exact .inl ⟨i, he, (Host.Outcome.next.inj h).symm⟩
  · rename_i i left he
    exact .inr (.inl ⟨i, left, he, (Host.Outcome.next.inj h).symm⟩)
  · rename_i he
    split at h
    · rename_i hc
      exact .inr (.inr (.inl ⟨he, hc, (Host.Outcome.next.inj h).symm⟩))
    · rename_i c hc
      split at h
      · rename_i hl
        rw [exec_eq] at h
        exact .inr (.inr (.inr (.inl ⟨c, he, hc, hl, (Host.Outcome.next.inj h).symm⟩)))
      · rename_i left hl
        exact .inr (.inr (.inr (.inr ⟨c, left, he, hc, hl, (Host.Outcome.next.inj h).symm⟩)))

/-- The placed command runs in the very next step, whatever the state was (log entry 11). -/
theorem step_withFetchWord (s : State) (w : Nat) :
    step (s.withFetchWord 32 w) = exec (decode (BitVec.ofNat 32 w))
      { s with engine := .idle, rstN := true, responses := .ok :: s.responses, draws := s.draws + 1 } := by
  have hc : issuedWord (s.withFetchWord 32 w) = some (BitVec.ofNat 32 w) := by
    have ht : target 0x004#17 .b4 = some (.register .cmd) := by decide
    have hw : BitVec.ofNat 32 (w % 2 ^ 32) = BitVec.ofNat 32 w := by
      apply BitVec.eq_of_toNat_eq
      simp
    simp only [issuedWord, State.withFetchWord, ht, hw, and_self, if_true]
  have hl : nextLatency (s.withFetchWord 32 w) = 0 := rfl
  have he : (s.withFetchWord 32 w).engine = .idle := rfl
  simp only [step, he, hc, hl]
  rfl

end Sys2Proof.Machine
end

