-- ==== Sys2Proof/Tests/Slice0.lean ====
section
/-! SUPPORT. Small tests of the model, their expected values from 95_test_vectors.md and the rules' own examples, and
for every obligation with hypotheses a witness that meets them. -/

namespace Sys2Proof.Tests

open Sys2Proof.Machine

/-! ### Helpers -/

/-- Something of the next state, if the outcome is one. -/
def ofNext {α : Type} (f : State → α) : Host.Outcome State Fault Refusal → Option α
  | .next t => some (f t)
  | .fault _ => none
  | .refused _ => none

/-- The reset state with CONFIG, DATA_LEN and memory bytes of the test's own. -/
def start (version : BitVec 6) (level : BitVec 2) (maskEn : BitVec 8) (len : BitVec 12) (mem : Memory) : State :=
  { State.reset with regs := { Regs.reset with config := ⟨version, level, maskEn⟩, dataLen := len }, mem := mem }

/-- The data codewords of HELLO WORLD at version 1, level Q (W-2). -/
def helloData : List Byte := [0x20, 0x5B, 0x0B, 0x78, 0xD1, 0x72, 0xDC, 0x4D, 0x43, 0x40, 0xEC, 0x11, 0xEC]

/-- The core right before the ENCODE of W-2. -/
def hello : State := start 1 2 0xFF 13 (Memory.store [] 0x01000 helloData)

/-- The reset state with inputs waiting. -/
def withInputs (inputs : List Input) : State := { State.reset with inputs := inputs }

/-- A core that stays BUSY with `i` for `left` more steps, with inputs waiting. -/
def busyWith (i : Instr) (left : Nat) (inputs : List Input) : State := issue i left (withInputs inputs)

/-- STATUS after an outcome. -/
def statusOf : Host.Outcome State Fault Refusal → Option Word := ofNext fun t => readReg t .status

/-! ### Well-formed terms: one ill-formed term for each check -/

theorem test_wf_every_command : Instr.wellFormed (.maskApply 7) = true := by decide
theorem test_wf_register_aligned : HostLine.wellFormed (.wr 0x006 0) = false := by decide
theorem test_wf_register_range : HostLine.wellFormed (.rd 0x200) = false := by decide
theorem test_wf_address_range : HostLine.wellFormed (.rdb 0x20000) = false := by decide
theorem test_wf_byte_value : HostLine.wellFormed (.wrb 0x01000 256) = false := by decide
theorem test_wf_half_value : HostLine.wellFormed (.wrh 0x01000 65536) = false := by decide
theorem test_wf_word_value : HostLine.wellFormed (.expect 0x008 4294967296) = false := by decide
theorem test_wf_load_end : HostLine.wellFormed (.load 0x1FFFF [1, 2]) = false := by decide
theorem test_wf_load_byte : HostLine.wellFormed (.load 0x01000 [256]) = false := by decide
theorem test_wf_expectb_byte : HostLine.wellFormed (.expectb 0x10000 256) = false := by decide
theorem test_wf_good_lines :
    [HostLine.wr 0x00C 0x00FF0201, .wrb 0x01000 0x20, .wrh 0x08000 0x8180, .rd 0x008, .rdb 0x10000, .cmd .encodeSymbol,
      .wait 2, .load 0x01000 [0x20, 0x5B], .expect 0x014 26, .expectb 0x10000 1].all HostLine.wellFormed = true := by
  decide

/-! ### Decoding: words written out bit by bit from R69 and R70 (MASK 10:8, OP 3:0) -/

theorem test_decode_control :
    decode 0b00000000000000000000000000000000#32 = .nop ∧ decode 0b00000000000000000000000000001000#32 = .encodeSymbol ∧
    decode 0b00000000000000000000000000001111#32 = .softReset := by decide
theorem test_decode_rs :
    decode 0b00000000000000000000000000000001#32 = .rsInit ∧ decode 0b00000000000000000000000000000010#32 = .rsEncode := by
  decide
theorem test_decode_block_and_frame :
    decode 0b00000000000000000000000000000011#32 = .blockEncode ∧
    decode 0b00000000000000000000000000000100#32 = .frameInit ∧
    decode 0b00000000000000000000000000000101#32 = .framePlace := by decide
theorem test_decode_mask :
    decode 0b00000000000000000000010100000110#32 = .maskApply 5 ∧
    decode 0b00000000000000000000000000000111#32 = .maskEval := by decide
theorem test_decode_reserved :
    decode 0b00000000000000000000000000001001#32 = .reserved9 ∧ decode 0b00000000000000000000000000001010#32 = .reservedA ∧
    decode 0b00000000000000000000000000001011#32 = .reservedB ∧ decode 0b00000000000000000000000000001100#32 = .reservedC ∧
    decode 0b00000000000000000000000000001101#32 = .reservedD ∧ decode 0b00000000000000000000000000001110#32 = .reservedE := by
  decide
theorem test_decode_ignores_other_bits :
    decode 0xFFFFFFF0#32 = .nop ∧ decode 0xFFFFF8F6#32 = .maskApply 0 ∧ decode 0x00000705#32 = .framePlace := by decide
theorem test_decode_wrong_length :
    decodeBytes [6, 5, 0] = .error .shorterThanOneWord ∧ decodeBytes [6, 5, 0, 0, 0] = .error .longerThanOneWord ∧
    decodeBytes [6, 5, 0, 0] = .ok (.maskApply 5) := by decide
theorem test_expand_lines :
    HostLine.expand (.cmd (.maskApply 6)) = [.write 0x004#17 .b4 0x00000606#32] ∧
    HostLine.expand (.load 0x01000 [0x20, 0x5B]) = [.write 0x01000#17 .b1 0x20#32, .write 0x01001#17 .b1 0x5B#32] := by
  decide

/-! ### Commands -/

theorem test_nop_after_failure : statusOf (exec .nop { State.reset with
    regs := { Regs.reset with status := ⟨true, true, false, 3#4, 3#4⟩ } }) = some 0x00000002#32 := by decide
theorem test_reserved_first_and_A :
    statusOf (exec .reserved9 State.reset) = some 0x00009106#32 ∧
    statusOf (exec .reservedA State.reset) = some 0x0000A106#32 := by decide
theorem test_reserved_others :
    statusOf (exec .reservedB State.reset) = some 0x0000B106#32 ∧
    statusOf (exec .reservedC State.reset) = some 0x0000C106#32 ∧
    statusOf (exec .reservedD State.reset) = some 0x0000D106#32 ∧
    statusOf (exec .reservedE State.reset) = some 0x0000E106#32 := by decide
theorem test_soft_reset : ofNext (fun t => (readReg t .status, readReg t .config, t.mem.read 0x01000)) (exec .softReset hello) =
    some (0x0000F002#32, 0x00FF0001#32, 0x20#8) := by decide

/-- The registers of the second valid row of 95_test_vectors.md section 2. -/
def tupleRegs : Regs := { Regs.reset with rsNroots := 2, rsPad := 251 }

theorem test_primitive_field : primitive 0x11D = true := by decide +kernel
theorem test_not_primitive : primitive 0x11B = false ∧ primitive 0x100 = false ∧ primitive 0x1FF = false := by decide +kernel
theorem test_rs_init : ofNext (fun t => (readReg t .rsAct, readReg t .status, t.mem.read 0x0321D, t.mem.read 0x03301))
    (exec .rsInit { State.reset with regs := tupleRegs }) = some (0x0002FB02#32, 0x00011002#32, 8#8, 0x03#8) := by
  have hv : tupleRegs.programmedTuple.valid = true := by
    have h : tupleRegs.programmedTuple.valid = (true && primitive 0x11D) := by
      rw [CodecTuple.valid]
      congr 1
    rw [h, test_primitive_field]
    rfl
  have he : exec .rsInit { State.reset with regs := tupleRegs } =
      .next (complete (captureCodec tupleRegs.programmedTuple (issue .rsInit 0 { State.reset with regs := tupleRegs }))) := by
    rcases rsInit_cases (issue .rsInit 0 { State.reset with regs := tupleRegs }) with ⟨-, h⟩ | ⟨h, -⟩
    · rw [exec_eq]
      exact congrArg _ h
    · exact absurd (hv.symm.trans h) (by decide)
  rw [he]
  decide +kernel
theorem test_rs_init_right_after_reset : statusOf (exec .rsInit State.reset) = some 0x00001406#32 := by decide

/-- The core after RS_INIT of `tupleRegs`, by the constants of R81 and GENPOLY 02 03 01. -/
def rsReady : State :=
  { State.reset with
    regs := { tupleRegs with codec := some ⟨0x11D, 0, 1, 2, 251⟩ }
    mem := Memory.store (Memory.store [] 0x01000 [0x01, 0x02]) 0x03100
      (qrTables.alpha ++ qrTables.index ++ [0x02, 0x03, 0x01]) }

theorem test_rs_encode : ofNext (fun t => [t.mem.read 0x03000, t.mem.read 0x03001]) (exec .rsEncode rsReady) =
    some [0x01#8, 0x02#8] := by decide +kernel
theorem test_rs_encode_not_ready : statusOf (exec .rsEncode State.reset) = some 0x00002506#32 := by decide
theorem test_gf_mul : qrTables.mul 0x53 0xCA = 0x8F#8 ∧ qrTables.mul 0xFF 0xFF = 0xE2#8 := by decide +kernel
theorem test_generator_7 :
    qrGenerator 7 = [0x75, 0x44, 0x0B, 0xA4, 0x9A, 0x7A, 0x7F, 0x01] := by decide +kernel

theorem test_block_encode : ofNext (fun t => (readReg t .cwLen, t.mem.readBlock 0x02000 26)) (exec .blockEncode hello) =
    some (26#32, helloData ++
      [0xA8, 0x48, 0x16, 0x52, 0xD9, 0x36, 0x9C, 0x00, 0x2E, 0x0F, 0xB4, 0x7A, 0x10]) := by decide +kernel
theorem test_block_encode_version_first : statusOf (exec .blockEncode (start 41 0 0xFF 0 [])) = some 0x00003206#32 := by
  decide

theorem test_frame_init : ofNext (fun t => [0x08000 + 13 * 21 + 8, 0x08000 + 8 * 21 + 9, 0x08000 + 9 * 21 + 6].map t.mem.read)
    (exec .frameInit State.reset) = some [0x81#8, 0x00#8, 0x80#8] := by decide +kernel
theorem test_version_block : (geometry 7).map (fun g => [skeletonCell g 34 0, skeletonCell g 36 0, skeletonCell g 34 3]) =
    some [0x80#8, 0x81#8, 0x80#8] := by decide +kernel

theorem test_placement : [80, 79, 71, 70, 62, 61].map (fun k => (placedFrame 9 (bitStream [0x28])
      ((List.replicate 81 0#8).set 62 0x81)).getD k 0) =
    [0x02#8, 0x02#8, 0x03#8, 0x02#8, 0x81#8, 0x03#8] := by decide +kernel
theorem test_frame_place_clears_sel :
    ofNext (fun t => readReg t .sel) (exec .framePlace { State.reset with regs := { Regs.reset with sel := ⟨6, true⟩ } }) =
    some 0x00000006#32 := by decide
theorem test_traversal_start : (traversal 21).take 5 = [(20, 20), (19, 20), (20, 19), (19, 19), (20, 18)] := by decide +kernel

theorem test_mask_functions :
    maskIds.map (fun m => maskBit m 2 3) = [false, false, false, false, false, true, true, false] ∧
    maskIds.map (fun m => maskBit m 5 7) = [true, false, false, true, true, false, false, true] := by decide
/-- The order of R109's first cells and the turn at the pair (5, 4), from R112's example and FP-1. -/
theorem test_visited_cells :
    (List.range 5).map (visitedCell 21) = [(20, 20), (19, 20), (20, 19), (19, 19), (20, 18)] ∧
    visitedCell 21 (42 * 7 + 2 * 9) = (5, 9) ∧ visitedCell 21 (42 * 7) = (5, 0) := by decide
theorem test_field_powers : [1, 8, 25, 253, 254, 255].map (fieldPower 0x11D) = [0x02, 0x1D, 0x03, 0x47, 0x8E, 0x01] := by
  decide +kernel
theorem test_mask_apply : ofNext (fun t => (readReg t .format, readReg t .sel, t.mem.read (0x10000 + 8), t.mem.read 0x10000))
    (exec (.maskApply 6) (start 1 2 0xFF 0 (Memory.store [] 0x08000 (List.replicate 441 0#8)))) =
    some (0x2EDA#32, 0x00000106#32, 0#8, 1#8) := by decide +kernel
theorem test_mask_apply_version : statusOf (exec (.maskApply 0) (start 0 0 0xFF 0 [])) = some 0x00006206#32 := by decide
theorem test_mask_eval_no_candidate : statusOf (exec .maskEval (start 1 0 0 0 [])) = some 0x00007706#32 := by decide
theorem test_selection_tie : selectMask 0x42 (fun _ => 385) = some 1 := by decide
theorem test_line_penalties :
    runLengths [true, false, true, true, true, false, true, false, false, false, false] = [-1, 1, 1, 3, 1, 1, 4] ∧
    lineRule3 [-1, 1, 1, 3, 1, 1, 4] = 40 ∧ lineRule3 [4, 1, 1, 3, 1, 1, 4, 1] = 40 ∧
    lineRule3 [1, 1, 1, 3, 1, 1, 1] = 0 ∧ lineRule3 [-1, 2, 2, 6, 2, 2, 4] = 40 ∧
    lineRule1 [-1, 2, 2, 6, 2, 2, 4] = 4 ∧ lineRule1 [-1, 5, 5] = 6 := by decide
theorem test_square_and_balance :
    rule2 3 [[true, true, true], [true, true, true], [true, true, true]] = 12 ∧
    rule4 21 218 = 0 ∧ rule4 21 198 = 10 ∧ rule4 21 243 = 10 ∧ rule4 21 294 = 30 ∧ rule4 21 0 = 100 := by decide

theorem test_encode_codewords : ofNext (fun t => (readReg t .cwLen, t.mem.read 0x0200D)) (exec .encodeSymbol hello) =
    some (26#32, 0xA8#8) := by decide +kernel
theorem test_encode_checks_length_before_masks : statusOf (exec .encodeSymbol (start 1 2 0 12 [])) = some 0x00008306#32 := by
  decide

theorem test_computed_registers :
    [Reg.geom, .cap, .blk, .verinfo].map (readReg (start 40 3 0xFF 0 [])) =
      [0x000070B1#32, 0x04FC0E7A#32, 0x1E0F3D14#32, 0x00028C69#32] := by decide

/-! ### Transactions -/

theorem test_unmapped_read : ofNext (fun t => t.responses) (step (withInputs [.txn (.read 0x00200 .b1)])) =
    some [.busError] := by decide
theorem test_half_register_read : ofNext (fun t => t.responses) (step (withInputs [.txn (.read 0x008 .b2)])) =
    some [.busError] := by decide
theorem test_misaligned_half_write : ofNext (fun t => (t.responses, t.mem)) (step (withInputs [.txn (.write 0x08001 .b2 0xFFFF)])) =
    some ([.busError], []) := by decide
theorem test_half_write_is_little_endian :
    ofNext (fun t => t.mem) (step (withInputs [.txn (.write 0x08000 .b2 0x8180)])) =
    some [(0x08000, 0x80#8), (0x08001, 0x81#8)] := by decide
theorem test_word_read_is_little_endian : readMem [(0x08000, 0x80#8), (0x08001, 0x81#8), (0x08002, 0x00#8), (0x08003, 0x03#8)]
    0x08000 .b4 = 0x03008180#32 := by decide
theorem test_out_is_read_only : ofNext (fun t => (t.responses, t.mem)) (step (withInputs [.txn (.write 0x10000 .b1 1)])) =
    some ([.ok], []) := by decide
theorem test_id_read : ofNext (fun t => t.responses) (step (withInputs [.txn (.read 0x000 .b4)])) =
    some [.data 0x51524331#32] := by decide
theorem test_busy_write_is_dropped : ofNext (fun t => (readReg t .config, t.regs.status.ovr, t.responses))
    (step (busyWith .nop 1 [.txn (.write 0x00C .b4 0)])) = some (0x00FF0001#32, true, [.ok]) := by decide
theorem test_interrupt : ofNext State.irq (exec .nop { State.reset with regs := { Regs.reset with irqEn := true } }) =
    some true := by decide
theorem test_reset_while_encode_is_busy : ofNext (fun t => (t.regs == Regs.reset, t.engine, t.mem.read 0x01000))
    (step { issue .encodeSymbol 2 hello with inputs := [.rstPin false] }) = some (true, .idle, 0x20#8) := by decide
theorem test_placed_command_runs : statusOf (step (State.reset.withFetchWord 32 0x0000000A)) = some 0x0000A106#32 := by decide

/-! ### Witnesses: states and operands that meet the hypotheses of the obligations -/

/-- What every statement about version 1 assumes, and the last version. -/
theorem witness_geometry : (start 1 2 0xFF 13 []).regs.geometry.isSome = true ∧
    (start 40 0 0xFF 2956 []).regs.geometry.isSome = true ∧ (geometry 7).isSome = true := by decide

theorem witness_OpcodeFieldAloneSelectsTheCommand :
    (0x00000606#32).extractLsb' 0 4 = (0xFFFFFEF6#32).extractLsb' 0 4 ∧
    ((0x00000606#32).extractLsb' 0 4 = 0x6#4 → (0x00000606#32).extractLsb' 8 3 = (0xFFFFFEF6#32).extractLsb' 8 3) ∧
    (0x00000705#32).extractLsb' 0 4 = (0x00000005#32).extractLsb' 0 4 := by decide

theorem witness_DecodeAndEncodeAgree : (Instr.maskApply 7).wellFormed = true := by decide

/-- A CMD write waiting, with the latency chosen: at once, and three steps. -/
theorem witness_StepRunsTheDecodedCommand :
    (let s := { withInputs [.txn (.write 0x004#17 .b4 0x606#32)] with latencies := [0] }
     s.engine = .idle ∧ s.rstN = true ∧ s.inputs = .txn (.write 0x004#17 .b4 0x606#32) :: [] ∧ nextLatency s = 0) ∧
    (let s := { withInputs [.txn (.write 0x004#17 .b4 0x606#32)] with latencies := [3] }
     s.engine = .idle ∧ s.rstN = true ∧ s.inputs = .txn (.write 0x004#17 .b4 0x606#32) :: [] ∧ nextLatency s = 2 + 1) ∧
    State.reset.latencies = [] ∧ (busyWith .nop 0 []).engine = .busy .nop 0 := by decide

theorem witness_IssueSetsBusyAndClearsStatus :
    let s := { withInputs [.txn (.write 0x004#17 .b4 0xF#32)] with latencies := [1] }
    s.engine = .idle ∧ s.rstN = true ∧ s.inputs = .txn (.write 0x004#17 .b4 0xF#32) :: [] ∧ nextLatency s = 0 + 1 := by
  decide

theorem witness_FailingCommandWritesOnlyStatus :
    reportedError .encodeSymbol State.reset = some .lengthMismatch ∧ Instr.encodeSymbol ≠ .rsInit ∧
    reportedError .rsEncode State.reset = some .notReady ∧ reportedError .reservedE State.reset = some .illegalCommand := by
  decide

/-- One codeword too few and one too many. -/
theorem witness_WrongDataLengthRaisesLengthMismatch :
    (geometry 1).all (fun g => ((start 1 2 0xFF 12 []).regs.dataLen.toNat != ((start 1 2 0xFF 12 []).regs.blockSpec g).data) &&
      (14 != ((start 1 2 0xFF 14 []).regs.blockSpec g).data)) = true ∧ (geometry 1).isSome = true := by decide

theorem witness_CommandsWriteNoUnlisted :
    mayWriteByte .frameInit State.reset 0x081B9 = false ∧ mayWriteByte .frameInit State.reset 0x081B8 = true ∧
    mayWriteReg .frameInit .format = false ∧ mayWriteReg .softReset .id = false := by decide

theorem witness_RsInitBuildsTablesAndGenerator :
    CodecTuple.valid ⟨0x11D, 0, 1, 1, 253⟩ = true ∧ CodecTuple.valid ⟨0x11D, 255, 255, 254, 0⟩ = true := by
  have h : CodecTuple.valid ⟨0x11D, 0, 1, 1, 253⟩ = (true && primitive 0x11D) ∧
      CodecTuple.valid ⟨0x11D, 255, 255, 254, 0⟩ = (true && primitive 0x11D) := by
    constructor <;> rw [CodecTuple.valid] <;> congr 1
  rw [h.1, h.2, test_primitive_field]
  decide

/-- NROOTS = 0 fails the second condition of R83. -/
theorem witness_FailingRsInitInvalidatesTheCodec : ¬ ValidTuple ⟨State.reset.regs.rsPoly, State.reset.regs.rsFcr,
    State.reset.regs.rsPrim, State.reset.regs.rsNroots, State.reset.regs.rsPad⟩ :=
  fun h => absurd h.2.1.1 (by decide)

theorem witness_ShiftRegisterIsPolynomialDivision : 7 ≤ (qrGenerator 7).length := by
  rw [test_generator_7]
  decide

/-- The last legal offset, RS_SRC = 4096 − K. -/
theorem witness_RsEncodeWritesTheDivisionRemainder :
    let s := { rsReady with regs := { rsReady.regs with rsSrc := 4094 } }
    s.regs.codec = some ⟨0x11D, 0, 1, 2, 251⟩ ∧
      s.regs.rsSrc.toNat + (255 - (2#8).toNat - (251#8).toNat) ≤ 4096 := by decide

theorem witness_ComputedRegistersFollowConfig :
    (start 1 0 0xFF 0 []).regs.config.version.toNat = 1 ∧ (start 40 0 0xFF 0 []).regs.config.version.toNat = 40 ∧
    (start 0 0 0xFF 0 []).regs.config.version.toNat = 0 ∧ (start 41 0 0xFF 0 []).regs.config.version.toNat = 41 := by decide

/-- DATA_LEN is the capacity at 1-Q and at 40-L, and MASK_EN is not 0: BLOCK_ENCODE, MASK_EVAL and ENCODE run. -/
theorem witness_EncodeIsThePipeline :
    (geometry 1).map (fun g => (hello.regs.blockSpec g).data) = some hello.regs.dataLen.toNat ∧
    hello.regs.geometry = geometry 1 ∧ hello.regs.config.maskEn ≠ 0#8 ∧
    (geometry 40).map (fun g => ((start 40 0 0xFF 2956 []).regs.blockSpec g).data) =
      some (start 40 0 0xFF 2956 []).regs.dataLen.toNat := by decide

theorem witness_BlockEncodeIgnoresTheProgrammableCodec :
    (let u := { hello with regs := { hello.regs with codec := some ⟨0x11D, 0, 1, 2, 251⟩ } }
     u.regs.config = hello.regs.config ∧ u.regs.dataLen = hello.regs.dataLen ∧
      ∀ a, isTableAddr a = false → u.mem.read a = hello.mem.read a) := ⟨rfl, rfl, fun _ _ => rfl⟩

theorem witness_SkeletonHoldsItsFixedPatterns :
    (geometry 7).map (fun g => (g.width, g.align.length)) = some (45, 3) ∧ ringDistance 4 7 3 3 = 4 ∧
    ringDistance 24 4 22 6 = 2 := by decide

/-- The last cell the traversal of version 1 visits. -/
theorem witness_TraversalVisitsEachCellOnce :
    (geometry 1).map (fun g => g.width) = some 21 ∧ 419 < 21 * (21 - 1) ∧ visitedCell 21 419 = (0, 20) := by decide

theorem witness_FormatBitsStandInTheirTwoCopies : 21 ≤ 21 ∧ 14 < 15 ∧ formatBitIndex 21 8 14 = some 8 := by decide

theorem witness_FramePlaceFillsFreeCellsInOrder :
    isFixed (Memory.read [(0x08000, 0x81#8)] (0x08000 + 0 * 21 + 0)) = true ∧
    isFixed (Memory.read [(0x081B8, 0x7F#8)] (0x08000 + 20 * 21 + 20)) = false := by decide

theorem witness_ComputedTotalsAreExactAndBounded :
    (List.replicate 441 0x81#8).length = 441 ∧ (geometry 1).map (fun g => g.width * g.width) = some 441 :=
  ⟨List.length_replicate, by decide⟩

theorem witness_SelectionTakesTheLowestMinimum :
    selectMask 0x80 (fun _ => 0) = some 7 ∧ (0x80#8).getLsbD (7#3).toNat = true := by decide

theorem witness_MaskEvalSelectsAndWritesTheMinimum :
    (start 1 3 0x42 0 []).regs.geometry.isSome = true ∧ (start 1 3 0x42 0 []).regs.config.maskEn ≠ 0#8 := by decide

theorem witness_SingleCandidateEvalIsMaskApply :
    (start 1 0 0x80 0 []).regs.config.maskEn = 1#8 <<< (7#3).toNat ∧
    (start 1 0 0x80 0 []).regs.geometry.isSome = true := by decide

/-- Both ends of the unmapped ranges, an aligned half word and a misaligned word of the registers, and a word whose
last bytes are unmapped. -/
theorem witness_AccessWithoutMeaningIsBusError :
    Unmapped 0x00200 ∧ Unmapped 0x00FFF ∧ Unmapped 0x03400 ∧ Unmapped 0x07FFF ∧ Unmapped 0x18000 ∧ Unmapped 0x1FFFF ∧
    ((0x1FC#17).toNat < 0x200 ∧ (Size.b2 ≠ .b4 ∨ (0x1FC#17).toNat % 4 ≠ 0)) ∧
    ((0x1FE#17).toNat < 0x200 ∧ (Size.b4 ≠ .b4 ∨ (0x1FE#17).toNat % 4 ≠ 0)) ∧
    (2 < Size.b4.bytes ∧ Unmapped ((0x033FE#17).toNat + 2)) ∧
    ((regionOf (0x17FFF#17).toNat).isSome = true ∧ (0x17FFF#17).toNat % Size.b2.bytes ≠ 0) := by
  have h : (regionOf (0x17FFF#17).toNat).isSome = true := by decide
  simp only [h]
  simp [Unmapped, Size.bytes]

theorem witness_MemoryAccessMustBeAligned :
    regionOf (0x17FFC#17).toNat = some .out ∧ (0x17FFC#17).toNat % Size.b4.bytes = 0 ∧
    regionOf (0x17FFE#17).toNat = some .out ∧ (0x17FFE#17).toNat % Size.b4.bytes ≠ 0 := by decide

theorem witness_MemoryWriteThenReadGivesTheValue :
    regionOf (0x0FFFC#17).toNat = some .grid ∧ (0x0FFFC#17).toNat % Size.b4.bytes = 0 ∧
    (let s := withInputs [.txn (.write 0x0FFFC .b4 0x81820203#32), .txn (.read 0x0FFFC .b4)]
     s.engine = .idle ∧ s.rstN = true ∧
      s.inputs = .txn (.write 0x0FFFC .b4 0x81820203#32) :: .txn (.read 0x0FFFC .b4) :: []) := by decide

/-- A read-only memory at its two ends, a read-only register, and both ends of the reserved and scoreboard offsets. -/
theorem witness_ReadOnlyWriteChangesNothing :
    LegalAccess 0x10000 .b1 ∧ regionOf 0x10000 = some .out ∧ LegalAccess 0x17FFF .b1 ∧ regionOf 0x17FFF = some .out ∧
    LegalAccess 0x03100 .b4 ∧ regionOf 0x03100 = some .alphaTo ∧ LegalAccess 0x03200 .b4 ∧
    regionOf 0x03200 = some .indexOf ∧ LegalAccess 0x033FC .b4 ∧ regionOf 0x033FC = some .genPoly ∧
    LegalAccess 0x04C .b4 ∧ LegalAccess 0x050 .b4 ∧ LegalAccess 0x1FC .b4 := by
  have h : regionOf 0x10000 = some .out ∧ regionOf 0x17FFF = some .out ∧ regionOf 0x03100 = some .alphaTo ∧
      regionOf 0x03200 = some .indexOf ∧ regionOf 0x033FC = some .genPoly := by decide
  simp [LegalAccess, Size.bytes, h]

theorem witness_WritableRegistersReadBackTheirFields :
    let s := withInputs [.txn (.write 0x024#17 .b4 0xFFFFFFFF#32), .txn (.read 0x024#17 .b4)]
    (0x024#17, Reg.rsPoly, 0x1FF#32) ∈ readWriteRegisters ∧ s.engine = .idle ∧ s.rstN = true ∧
      s.inputs = .txn (.write 0x024#17 .b4 0xFFFFFFFF#32) :: .txn (.read 0x024#17 .b4) :: [] := by decide

/-- A listed register, the last scoreboard register, both ends of the reserved offsets, and the last word of OUT. -/
theorem witness_IdleReadHasNoSideEffect :
    (withInputs [.txn (.read 0x034#17 .b4)]).engine = .idle ∧
    (withInputs [.txn (.read 0x034#17 .b4)]).inputs = .txn (.read 0x034#17 .b4) :: [] ∧
    ((0x034#17).toNat, 0#32) ∈ idleRegisterWords State.reset ∧
    ((0x1BC#17).toNat, 0#32) ∈ scoreRegisterWords State.reset 7 ∧
    ((0x050#17).toNat % 4 = 0 ∧ 0x050 ≤ (0x050#17).toNat ∧ (0x050#17).toNat < 0x100) ∧
    ((0x1FC#17).toNat % 4 = 0 ∧ 0x1C0 ≤ (0x1FC#17).toNat ∧ (0x1FC#17).toNat < 0x200) ∧
    (regionOf (0x17FFC#17).toNat).isSome = true ∧ (0x17FFC#17).toNat % Size.b4.bytes = 0 := by decide

theorem witness_StatusOnesClearDoneAndOverrun :
    let s := withInputs [.txn (.write 0x008#17 .b4 0xA#32)]
    s.engine = .idle ∧ s.rstN = true ∧ s.inputs = .txn (.write 0x008#17 .b4 0xA#32) :: [] := by decide

theorem witness_InterruptIsEnableAndDone : (2#32).getLsbD 1 = true ∧ Instr.nop ≠ .softReset := by decide

/-- A legal and an illegal write, and a read of STATUS, of a register and of the bytes of a word that the command does
not write, while BUSY. -/
theorem witness_Busy :
    (busyWith .encodeSymbol 1 [.txn (.write 0x00C#17 .b4 0#32)]).engine = .busy .encodeSymbol (0 + 1) ∧
    (busyWith .encodeSymbol 1 [.txn (.write 0x00C#17 .b4 0#32)]).inputs = .txn (.write 0x00C#17 .b4 0#32) :: [] ∧
    LegalAccess (0x00C#17).toNat .b4 ∧ ¬ LegalAccess (0x00D#17).toNat .b4 ∧ LegalAccess (0x008#17).toNat .b4 ∧
    mayWriteReg .encodeSymbol (regAt 0x00C) = false ∧ LegalAccess (0x01FFC#17).toNat .b4 ∧
    (∀ k < Size.b4.bytes, mayWriteByte .encodeSymbol State.reset ((0x01FFC#17).toNat + k) = false) := by
  have h : regionOf 13 = none ∧ regionOf 8188 = some .dataBuf := by decide
  refine ⟨rfl, rfl, ?_, ?_, ?_, by decide, ?_, by decide⟩ <;> simp [LegalAccess, h, Size.bytes]

theorem witness_BusyCommandIsAtomic :
    (busyWith .frameInit 2 [.txn (.write 0x00C#17 .b4 0#32), .quiet, .powerOn]).engine = .busy .frameInit 2 ∧
    noResets ((busyWith .frameInit 2 [.txn (.write 0x00C#17 .b4 0#32), .quiet, .powerOn]).inputs.take 2) = true := by decide

theorem witness_PowerOnGivesTheResetState :
    (withInputs [.powerOn]).inputs = .powerOn :: [] ∧ ∀ i, (withInputs [.powerOn]).engine ≠ .busy i 0 := by
  refine ⟨rfl, fun i h => ?_⟩
  injection h

theorem witness_ResetPinResetsAndAbandons :
    ((busyWith .frameInit 2 [.rstPin false]).inputs = .rstPin false :: [] ∧
      ∀ i, (busyWith .frameInit 2 [.rstPin false]).engine ≠ .busy i 0) ∧
    (withInputs [.rstPin true]).inputs = .rstPin true :: [] ∧ 32767 < regionSize .out ∧
    (busyWith .frameInit 2 [.rstPin true]).engine = .busy .frameInit (1 + 1) := by
  refine ⟨⟨rfl, fun i h => ?_⟩, by decide⟩
  injection h with _ h
  exact absurd h (by decide)

theorem witness_WritesInResetAreIgnored :
    let s := { withInputs [.txn (.write 0x004#17 .b4 1#32)] with rstN := false }
    s.rstN = false ∧ s.engine = .idle ∧ s.inputs = .txn (.write 0x004#17 .b4 1#32) :: [] ∧
      LegalAccess (0x004#17).toNat .b4 := by
  refine ⟨rfl, rfl, rfl, ?_⟩
  simp [LegalAccess]

/-- A step from a state whose memory lists a byte, with STATUS that reports an error. -/
theorem witness_StepKeepsMemoryAndOut :
    MemoryCanonical { hello with mem := [(0x10000, 1#8)] } ∧ OutBinary { hello with mem := [(0x10000, 1#8)] } ∧
    ∃ t, step { hello with mem := [(0x10000, 1#8)] } = .next t := by
  refine ⟨by unfold MemoryCanonical; decide, ?_, _, rfl⟩
  intro c hc _
  exact .inr (by rw [List.mem_singleton.mp hc])

theorem witness_StepKeepsStatusCoherent :
    StatusCoherent (busyWith .nop 0 []) ∧ ∃ t, step (busyWith .nop 0 []) = .next t := by
  refine ⟨⟨by decide, by decide, fun i left h => ?_⟩, _, rfl⟩
  injection h with h _
  subst h
  decide

theorem witness_StepKeepsTheCodecCoherent : CodecCoherent State.reset ∧ ∃ t, step State.reset = .next t :=
  ⟨fun _ ha => unlisted_table ha, _, rfl⟩

theorem witness_StepKeepsTheCoreInReset :
    ResetHeld { State.reset with rstN := false } ∧ ∃ t, step { State.reset with rstN := false } = .next t :=
  ⟨fun _ => ⟨rfl, rfl, fun _ ha => unlisted_table ha⟩, _, rfl⟩

theorem witness_StepKeepsTheScoreboardCoherent : ScoreboardCoherent hello ∧ ∃ t, step hello = .next t := by
  refine ⟨fun m => .inl ?_, _, rfl⟩
  revert m
  decide

end Sys2Proof.Tests
end

section
/-! PROOF. Memory changed by stores into regions, and by forgetting bytes: what such a change keeps. -/

namespace Sys2Proof.Machine

/-- `n` is `m` after stores into the regions `rs`, each inside its region (R40, R53), with only 0 and 1 stored to
OUT (R73). -/
inductive Stores (rs : List Region) (m : Memory) : Memory → Prop
  | refl : Stores rs m m
  | store {n : Memory} (r : Region) (off : Nat) (bytes : List Byte) (h : Stores rs m n) (hr : r ∈ rs)
      (hlen : off + bytes.length ≤ regionSize r) (hout : r = .out → ∀ b ∈ bytes, b = 0#8 ∨ b = 1#8) :
      Stores rs m (n.store (regionBase r + off) bytes)

/-- A store from a region's start, as a command makes it (R11), to another region than OUT. -/
theorem Stores.storeBuf {rs : List Region} {m n : Memory} (h : Stores rs m n) (r : Region) (bytes : List Byte)
    (hr : r ∈ rs) (hlen : bytes.length ≤ regionSize r) (hout : r ≠ .out) : Stores rs m (n.storeBuf r bytes) :=
  .store r 0 bytes h hr (by omega) fun e => absurd e hout

/-- An address outside the regions stored into reads as before. -/
theorem Stores.read_eq {rs : List Region} {m n : Memory} (h : Stores rs m n) {a : Nat}
    (ha : ∀ r ∈ rs, inRegion r a = false) : n.read a = m.read a := by
  induction h with
  | refl => rfl
  | store r off bytes _ hr hlen _ ih =>
    have hin : ¬ (regionBase r ≤ a ∧ a < regionBase r + regionSize r) := by
      rw [← inRegion_iff, ha r hr]
      simp
    rw [read_store_outside _ _ _ _ (by omega), ih]

/-- Stores inside regions keep the canonical form. -/
theorem Stores.wf {rs : List Region} {m n : Memory} (h : Stores rs m n) (hm : Memory.wf m) : Memory.wf n := by
  induction h with
  | refl => exact hm
  | store r off bytes _ _ hlen _ ih =>
    refine store_wf _ _ _ ih fun k hk => ?_
    rw [Nat.add_assoc, regionOf_inRegion r (off + k) (by omega)]
    rfl

/-- A byte of a block of entries is one of the bytes it was made of. -/
theorem snd_mem_of_mem_cellsFrom {c : Host.Cell} {a : Nat} {bytes : List Byte} (h : c ∈ cellsFrom a bytes) :
    c.2 ∈ bytes := by
  induction bytes generalizing a with
  | nil => simp [cellsFrom] at h
  | cons b bs ih =>
    rcases List.mem_cons.mp h with rfl | h
    · simp
    · exact List.mem_cons_of_mem _ (ih h)

/-- An entry after a store is an entry of the block or an old one. -/
theorem mem_of_mem_store {c : Host.Cell} {m : Memory} {base : Nat} {bytes : List Byte} (h : c ∈ m.store base bytes) :
    c ∈ cellsFrom base bytes ∨ c ∈ m := by
  unfold Memory.store at h
  rcases List.mem_append.mp h with h | h
  · rcases List.mem_append.mp h with h | h
    · exact .inr (List.mem_of_mem_filter h)
    · exact .inl (List.mem_of_mem_filter h)
  · exact .inr (List.mem_of_mem_filter h)

/-- The listed bytes of OUT are 0 or 1: `OutBinary` as a property of the memory. -/
def OutBytesBinary (m : Memory) : Prop := ∀ c ∈ m, inRegion .out c.1 = true → c.2 = 0#8 ∨ c.2 = 1#8

theorem outBinary_iff (s : State) : OutBinary s ↔ OutBytesBinary s.mem := Iff.rfl

/-- Stores inside regions keep OUT binary: only the stores to OUT reach it (R43, R53, R73). -/
theorem Stores.outBytesBinary {rs : List Region} {m n : Memory} (h : Stores rs m n) (hm : OutBytesBinary m) :
    OutBytesBinary n := by
  induction h with
  | refl => exact hm
  | store r off bytes _ _ hlen hout ih =>
    intro c hc hin
    rcases mem_of_mem_store hc with hc | hc
    · have hr : r = .out := by
        obtain ⟨hlo, hhi⟩ := mem_cellsFrom hc
        have hreg := inRegion_offset r .out (c.1 - regionBase r) (by omega)
        rw [Nat.add_sub_cancel' (by omega), hin] at hreg
        exact (of_decide_eq_true hreg.symm).symm
      exact hout hr _ (snd_mem_of_mem_cellsFrom hc)
    · exact ih c hc hin

theorem forget_outBytesBinary {m : Memory} (hm : OutBytesBinary m) (p : Nat → Bool) : OutBytesBinary (m.forget p) :=
  fun c hc => hm c (List.mem_of_mem_filter hc)

/-- One forget after another is one forget. -/
theorem forget_forget (m : Memory) (p q : Nat → Bool) :
    (m.forget p).forget q = m.forget fun a => p a || q a := by
  simp only [Memory.forget, List.filter_filter, Bool.not_or, Bool.and_comm]

/-- Forgetting every byte leaves the memory of power-on. -/
theorem forget_all (m : Memory) : m.forget (fun _ => true) = [] := by simp [Memory.forget]

/-- The regions of the codec tables are exactly the table addresses (R41, R53). -/
theorem inRegion_of_isTableAddr {a : Nat} (h : isTableAddr a = true) {r : Region}
    (hr : r ∉ [Region.alphaTo, .indexOf, .genPoly]) : inRegion r a = false := by
  have ha : 0x03100 ≤ a ∧ a < 0x03400 := by simpa [isTableAddr] using h
  rw [Bool.eq_false_iff, Ne, inRegion_iff]
  cases r <;> simp_all [regionBase, regionSize] <;> omega

end Sys2Proof.Machine
end

section
/-! PROOF. The rows of the version and block tables (R90 to R93), and how long the byte lists are that the commands
store. -/

namespace Sys2Proof.Machine

/-- What the version table holds of a version: the fields fit their registers (R34, R35), and the alignment count and
the version word are those of the rules (R91, R105). -/
abbrev RowFacts (g : Geometry) : Prop :=
  g.total < 4096 ∧ g.rem < 16 ∧ g.align.length = (if g.version = 1 then 0 else g.version / 7 + 2) ∧
    g.vword = if 7 ≤ g.version then versionWordComputed g.version else 0

/-- What the block table holds of a version at one level: the fields fit their register (R36), and the codewords of
all blocks are the version's total (R93). -/
abbrev BlockFacts (g : Geometry) (k : BlockSpec) : Prop :=
  0 < k.ecc ∧ k.ecc < 256 ∧ k.b1 < 256 ∧ k.b2 < 256 ∧ k.dl1 < 256 ∧ g.total = k.data + k.blocks * k.ecc

/-- The rows of all 40 versions, read off the version table. -/
theorem rowFacts_table : ∀ v ∈ List.range' 1 40, ∀ g ∈ geometry v, RowFacts g := by decide

/-- The block structures of all 40 versions at the four levels, read off the block table. -/
theorem blockFacts_table : ∀ v ∈ List.range' 1 40, ∀ g ∈ geometry v,
    ∀ k ∈ [g.blocks.l, g.blocks.m, g.blocks.q, g.blocks.h], BlockFacts g k := by decide

/-- The tables have a row for each of the 40 versions (R21, R91). -/
theorem geometry_isSome_table : ∀ v ∈ List.range' 1 40, (geometry v).isSome = true := by decide

/-- A version with a row is one of the 40, and the row is its own (R21). -/
theorem geometry_version {v : Nat} {g : Geometry} (h : geometry v = some g) :
    v ∈ List.range' 1 40 ∧ g.version = v := by
  unfold geometry at h
  split at h
  · contradiction
  · split at h
    · rename_i hv _ _ hr _
      have hlt : v - 1 < versionTable.length := (List.getElem?_eq_some_iff.mp hr).1
      have hlen : versionTable.length = 40 := by decide
      exact ⟨List.mem_range'_1.mpr (by omega), by rw [← Option.some.inj h]⟩
    · contradiction

/-- A legal version's row. -/
theorem rowFacts {v : Nat} {g : Geometry} (h : geometry v = some g) : RowFacts g :=
  rowFacts_table v (geometry_version h).1 g h

/-- A legal version's block structure at a level. -/
theorem blockFacts {v : Nat} {g : Geometry} (h : geometry v = some g) (lvl : Level) :
    BlockFacts g (g.blocks.at lvl) :=
  blockFacts_table v (geometry_version h).1 g h _ (by cases lvl <;> simp [BlockRow.at])

/-- A symbol is at most 177 modules wide (R90). -/
theorem width_le {v : Nat} {g : Geometry} (h : geometry v = some g) : g.width ≤ 177 := by
  obtain ⟨hv, hg⟩ := geometry_version h
  rw [List.mem_range'_1] at hv
  simp only [Geometry.width, width]
  omega

/-- A symbol fits in GRID and in OUT (R40, R43). -/
theorem modules_le {v : Nat} {g : Geometry} (h : geometry v = some g) : g.modules ≤ 31329 :=
  Nat.mul_le_mul (width_le h) (width_le h)

/-- The shift register never grows past its `n` bytes (R87). -/
theorem length_shiftRegister_le (mul : Byte → Byte → Byte) {n : Nat} {gTop : List Byte} (hg : gTop.length ≤ n)
    (par data : List Byte) (h : par.length ≤ n) : (shiftRegister mul gTop par data).length ≤ n := by
  induction data generalizing par with
  | nil => exact h
  | cons d ds ih =>
    refine ih _ ?_
    simp only [shiftStep, length_xorBytes, List.length_map]
    omega

/-- The parity of a block is at most n bytes long, whatever the generator (R87). -/
theorem length_parity_le (mul : Byte → Byte → Byte) (n : Nat) (g data : List Byte) :
    (parity mul n g data).length ≤ n :=
  length_shiftRegister_le mul (by simp [lowerHighFirst]) _ _ (by simp)

/-- RS_ENCODE writes no more than PAR_BUF holds (R89). -/
theorem length_capturedParity_le (t : CodecTuple) (s : State) : (capturedParity t s).length ≤ 255 :=
  (length_parity_le _ _ _ _).trans (by have := t.nroots.isLt; omega)

/-- The b-th of `n` pieces of length `len` from `start` on is whole when the pieces fit. -/
theorem length_piece {data : List Byte} {start n len b : Nat} (hb : b < n) (h : start + n * len ≤ data.length) :
    ((data.drop (start + b * len)).take len).length = len := by
  have hle : (b + 1) * len ≤ n * len := Nat.mul_le_mul_right _ hb
  rw [Nat.add_mul, Nat.one_mul] at hle
  rw [List.length_take, List.length_drop]
  omega

/-- The blocks have the lengths of R96, one after the other. -/
theorem map_length_splitBlocks {k : BlockSpec} {data : List Byte} (h : data.length = k.data) :
    (splitBlocks k data).map List.length = List.replicate k.b1 k.dl1 ++ List.replicate k.b2 (k.dl1 + 1) := by
  have hd : data.length = k.b1 * k.dl1 + k.b2 * (k.dl1 + 1) := h
  rw [splitBlocks, List.map_append, List.map_map, List.map_map]
  congr 1 <;> refine List.eq_replicate_iff.mpr ⟨by simp, fun n hn => ?_⟩ <;>
    obtain ⟨b, hb, rfl⟩ := List.mem_map.mp hn
  · have := length_piece (data := data) (start := 0) (List.mem_range.mp hb) (len := k.dl1) (by omega)
    rwa [Nat.zero_add] at this
  · exact length_piece (List.mem_range.mp hb) (by omega)

/-- The codeword stream is all data and all parity bytes (R97). -/
theorem length_codewordStream {k : BlockSpec} {data : List Byte} (h : data.length = k.data) (he : 0 < k.ecc) :
    (codewordStream k data).length = k.data + k.blocks * k.ecc := by
  have hl := map_length_splitBlocks h
  have hblocks : (splitBlocks k data).length = k.blocks := by
    rw [← List.length_map (f := List.length), hl]
    simp [BlockSpec.blocks]
  have hdata : (interleave (k.dl1 + 1) (splitBlocks k data)).length = k.data := by
    rw [length_interleave, hl]
    · simp [BlockSpec.data]
    · intro b hb
      have := hl ▸ List.mem_map_of_mem (f := List.length) hb
      simp only [List.mem_append, List.mem_replicate] at this
      omega
  have hparity : (interleave k.ecc ((splitBlocks k data).map (qrParity k.ecc))).length = k.blocks * k.ecc := by
    rw [length_interleave]
    · simp [Function.comp_def, length_qrParity _ _ he, hblocks]
    · simp [length_qrParity _ _ he]
  rw [codewordStream, List.length_append, hdata, hparity]

/-- BLOCK_ENCODE stores exactly the version's total of codewords (R97, R98). -/
theorem length_codewordStream_geometry {v : Nat} {g : Geometry} (h : geometry v = some g) (lvl : Level)
    {data : List Byte} (hd : data.length = (g.blocks.at lvl).data) :
    (codewordStream (g.blocks.at lvl) data).length = g.total := by
  obtain ⟨hecc, -, -, -, -, htotal⟩ := blockFacts h lvl
  rw [length_codewordStream hd hecc, htotal]

end Sys2Proof.Machine
end

section
/-! PROOF. Bounds of the penalties (R119 to R123): the sum of the four parts is exact and stays below 2^22. -/

namespace Sys2Proof.Machine

/-- Each run adds at most its length to rule 1 (R119). -/
theorem lineRule1_runsFrom_le (colour : Bool) (n : Nat) (bs : List Bool) :
    lineRule1 (runsFrom colour n bs) ≤ n + bs.length := by
  have hcons : ∀ (r : Int) (rs : List Int),
      lineRule1 (r :: rs) = (if 5 ≤ r then (3 + (r - 5)).toNat else 0) + lineRule1 rs :=
    fun _ _ => rfl
  induction bs generalizing colour n with
  | nil =>
    rw [runsFrom, hcons]
    simp only [lineRule1, List.map_nil, List.sum_nil, List.length_nil]
    split <;> omega
  | cons b bs ih =>
    unfold runsFrom
    split
    · exact (ih colour (n + 1)).trans (by simp; omega)
    · have := ih b 1
      rw [hcons, List.length_cons]
      split <;> omega

/-- A line's list is its runs, after the placeholder when it starts dark (R118). -/
theorem runLengths_cons (b : Bool) (bs : List Bool) :
    runLengths (b :: bs) = if b then -1 :: runsFrom b 1 bs else runsFrom b 1 bs := rfl

/-- Rule 1 adds at most a line's length (R119). -/
theorem lineRule1_runLengths_le (line : List Bool) : lineRule1 (runLengths line) ≤ line.length := by
  cases line with
  | nil => simp [runLengths, lineRule1]
  | cons b bs =>
    have h := lineRule1_runsFrom_le b 1 bs
    have hplaceholder : lineRule1 (-1 :: runsFrom b 1 bs) = 0 + lineRule1 (runsFrom b 1 bs) := rfl
    rw [runLengths_cons, List.length_cons]
    split <;> omega

/-- A line gives at most one run per cell, and the one it starts with. -/
theorem length_runsFrom_le (colour : Bool) (n : Nat) (bs : List Bool) :
    (runsFrom colour n bs).length ≤ bs.length + 1 := by
  induction bs generalizing colour n with
  | nil => simp [runsFrom]
  | cons b bs ih =>
    unfold runsFrom
    split
    · exact (ih _ _).trans (by simp)
    · simpa using ih b 1

/-- A line has at most one run per cell, and the placeholder (R118). -/
theorem length_runLengths_le (line : List Bool) : (runLengths line).length ≤ line.length + 1 := by
  cases line with
  | nil => simp [runLengths]
  | cons b bs =>
    have h := length_runsFrom_le b 1 bs
    rw [runLengths_cons]
    split <;> simp only [List.length_cons] <;> omega

/-- Rule 3 adds at most 40 per entry of the run-length list (R121). -/
theorem lineRule3_le (rl : List Int) : lineRule3 rl ≤ 40 * rl.length := by
  have := List.countP_le_length (p := finderLike rl) (l := List.range rl.length)
  rw [List.length_range] at this
  exact Nat.mul_le_mul_left 40 this

/-- No line of a w×w matrix is longer than w. -/
theorem length_le_of_mem_linesOf {w : Nat} {c : List Bool} {line : List Bool} (h : line ∈ linesOf w c) :
    line.length ≤ w := by
  rcases List.mem_append.mp h with h | h
  · obtain ⟨y, -, rfl⟩ := List.mem_map.mp h
    exact List.length_take_le _ _
  · obtain ⟨x, -, rfl⟩ := List.mem_map.mp h
    simp [rowsOf]

@[simp] theorem length_linesOf (w : Nat) (c : List Bool) : (linesOf w c).length = w + w := by
  simp [linesOf, rowsOf, columnsOf]

/-- A per-line penalty bounded by B on every line adds at most 2·w·B over the matrix. -/
theorem sum_linesOf_le {w B : Nat} {c : List Bool} {f : List Int → Nat}
    (h : ∀ line : List Bool, line.length ≤ w → f (runLengths line) ≤ B) :
    (((linesOf w c).map runLengths).map f).sum ≤ (w + w) * B := by
  have := List.sum_le_card_nsmul (((linesOf w c).map runLengths).map f) B fun n hn => by
    simp only [List.mem_map, exists_exists_and_eq_and] at hn
    obtain ⟨line, hline, rfl⟩ := hn
    exact h line (length_le_of_mem_linesOf hline)
  simpa using this

/-- Rule 2 counts at most (w − 1)² squares (R120). -/
theorem rule2_le (w : Nat) (rows : List (List Bool)) : rule2 w rows ≤ 3 * ((w - 1) * (w - 1)) := by
  refine Nat.mul_le_mul_left 3 ?_
  have := List.sum_le_card_nsmul
    ((List.range (w - 1)).map fun y => (List.range (w - 1)).countP fun x => uniformSquare rows (x + 1) (y + 1))
    (w - 1) fun n hn => by
      obtain ⟨y, -, rfl⟩ := List.mem_map.mp hn
      exact List.countP_le_length.trans (by simp)
  simpa using this

/-- Rule 4 adds at most 100 (R122). -/
theorem rule4_le {w dark : Nat} (h : dark ≤ w * w) : rule4 w dark ≤ 100 := by
  have hpercent : 100 * dark / (w * w) ≤ 100 :=
    Nat.div_le_of_le_mul (by rw [Nat.mul_comm]; exact Nat.mul_le_mul_right _ h)
  rw [rule4, absDiff]
  generalize 100 * dark / (w * w) = percent at hpercent ⊢
  omega

/-- The scoreboard entry of a computed candidate is the exact sum of its parts, below 2^22 (R38, R122, R123). -/
theorem penalties_bounded {w : Nat} {c : List Bool} (hw : w ≤ 177) (hc : c.length = w * w) :
    (penalties w c).total.toNat =
      (penalties w c).n1.toNat + (penalties w c).n2.toNat + (penalties w c).n3.toNat + (penalties w c).n4.toNat ∧
    (penalties w c).total.toNat < 2 ^ 22 ∧ (penalties w c).n4.toNat ≤ 100 ∧ (penalties w c).dark.toNat ≤ 31329 := by
  have h1 : (((linesOf w c).map runLengths).map lineRule1).sum ≤ (w + w) * 177 :=
    sum_linesOf_le fun line hl => (lineRule1_runLengths_le line).trans (hl.trans hw)
  have h2 : rule2 w (rowsOf w c) ≤ 3 * (176 * 176) :=
    (rule2_le w _).trans (Nat.mul_le_mul_left 3 (Nat.mul_le_mul (by omega) (by omega)))
  have h3 : (((linesOf w c).map runLengths).map lineRule3).sum ≤ (w + w) * (40 * 178) :=
    sum_linesOf_le fun line hl => (lineRule3_le _).trans (by have := length_runLengths_le line; omega)
  have hdark : darkCount c ≤ w * w := List.countP_le_length.trans hc.le
  have h4 : rule4 w (darkCount c) ≤ 100 := rule4_le hdark
  have hcells : w * w ≤ 177 * 177 := Nat.mul_le_mul hw hw
  have hnat : ∀ n : Nat, n < 2 ^ 22 → (BitVec.ofNat 32 n).toNat = n := fun n hn => by
    rw [BitVec.toNat_ofNat, Nat.mod_eq_of_lt (by omega)]
  simp only [penalties]
  rw [hnat _ (by omega), hnat _ (by omega), hnat _ (by omega), hnat _ (by omega), hnat _ (by omega), hnat _ (by omega)]
  omega

end Sys2Proof.Machine
end

section
/-! PROOF. What a command does, said once: the error it reports, and the body it runs between its issue and its
completion when it reports none. -/

namespace Sys2Proof.Machine

/-- What a command does between its issue and its completion when it reports no error (30_encoding.md R72). -/
def commandBody (i : Instr) (s : State) : State :=
  match i with
  | .rsInit => captureCodec s.regs.programmedTuple s
  | .rsEncode => s.regs.codec.elim s fun t => { s with mem := s.mem.storeBuf .parBuf (capturedParity t s) }
  | .blockEncode => s.regs.geometry.elim s fun g => blockEncodeBody g s
  | .frameInit => s.regs.geometry.elim s fun g => frameInitBody g s
  | .framePlace => s.regs.geometry.elim s fun g => framePlaceBody g s
  | .maskApply m => s.regs.geometry.elim s fun g => maskApplyBody g m s
  | .maskEval => s.regs.geometry.elim s fun g => maskEvalBody g s
  | .encodeSymbol => s.regs.geometry.elim s fun g => encodeBody g s
  | .softReset => softResetBody s
  | _ => s

/-- A failing command has changed nothing before it raises, RS_INIT apart, which invalidates the codec (R85, R138). -/
def failingBody (i : Instr) (s : State) : State := if i = .rsInit then invalidateCodec s else s

/-- How a command ends: with the first error of R136 or with its body run (R138). -/
def finish (i : Instr) (s : State) : Option CmdError → State
  | none => complete (commandBody i s)
  | some e => raise e (failingBody i s)

/-- The error of a command does not depend on the STATUS that its issue writes. -/
theorem reportedError_issue (i j : Instr) (n : Nat) (s : State) :
    reportedError i (issue j n s) = reportedError i s := by
  cases i <;> rfl

theorem lengthMatches_iff (g : Geometry) (s : State) :
    lengthMatches g s = true ↔ s.regs.dataLen.toNat = (s.regs.blockSpec g).data := beq_iff_eq

theorem lengthMatches_eq_false_iff (g : Geometry) (s : State) :
    lengthMatches g s = false ↔ s.regs.dataLen.toNat ≠ (s.regs.blockSpec g).data := beq_eq_false_iff_ne

/-- The commands with an error of their own, from any state: each reports its first error or runs its body. -/
theorem rsInit_eq (u : State) : rsInit u = finish .rsInit u (reportedError .rsInit u) := by
  rcases rsInit_cases u with ⟨hv, h⟩ | ⟨hv, h⟩ <;> simp [h, hv, reportedError, finish, commandBody, failingBody]

theorem rsEncode_eq (u : State) : rsEncode u = finish .rsEncode u (reportedError .rsEncode u) := by
  rcases rsEncode_cases u with ⟨hc, h⟩ | ⟨t, hc, hk, h⟩ | ⟨t, hc, hk, h⟩
  · simp [h, hc, reportedError, finish, failingBody]
  · simp [h, hc, hk, reportedError, finish, failingBody]
  · simp [h, hc, not_lt.mpr hk, reportedError, finish, commandBody]

theorem blockEncode_eq (u : State) : blockEncode u = finish .blockEncode u (reportedError .blockEncode u) := by
  rcases blockEncode_cases u with ⟨hg, h⟩ | ⟨g, hg, hl, h⟩ | ⟨g, hg, hl, h⟩
  · simp [h, hg, reportedError, finish, failingBody]
  · rw [lengthMatches_eq_false_iff] at hl
    simp [h, hg, hl, reportedError, finish, failingBody]
  · rw [lengthMatches_iff] at hl
    simp [h, hg, hl, reportedError, finish, commandBody]

theorem frameInit_eq (u : State) : frameInit u = finish .frameInit u (reportedError .frameInit u) := by
  rcases frameInit_cases u with ⟨hg, h⟩ | ⟨g, hg, h⟩ <;>
    simp [h, hg, reportedError, finish, commandBody, failingBody]

theorem framePlace_eq (u : State) : framePlace u = finish .framePlace u (reportedError .framePlace u) := by
  rcases framePlace_cases u with ⟨hg, h⟩ | ⟨g, hg, h⟩ <;>
    simp [h, hg, reportedError, finish, commandBody, failingBody]

theorem maskApply_eq (m : BitVec 3) (u : State) :
    maskApply m u = finish (.maskApply m) u (reportedError (.maskApply m) u) := by
  rcases maskApply_cases m u with ⟨hg, h⟩ | ⟨g, hg, h⟩ <;>
    simp [h, hg, reportedError, finish, commandBody, failingBody]

theorem maskEval_eq (u : State) : maskEval u = finish .maskEval u (reportedError .maskEval u) := by
  rcases maskEval_cases u with ⟨hg, h⟩ | ⟨g, hg, he, h⟩ | ⟨g, hg, he, h⟩
  · simp [h, hg, reportedError, finish, failingBody]
  · simp [h, hg, he, reportedError, finish, failingBody]
  · simp [h, hg, he, reportedError, finish, commandBody]

theorem encodeSymbol_eq (u : State) : encodeSymbol u = finish .encodeSymbol u (reportedError .encodeSymbol u) := by
  rcases encodeSymbol_cases u with ⟨hg, h⟩ | ⟨g, hg, hl, h⟩ | ⟨g, hg, hl, he, h⟩ | ⟨g, hg, hl, he, h⟩
  · simp [h, hg, reportedError, finish, failingBody]
  · rw [lengthMatches_eq_false_iff] at hl
    simp [h, hg, hl, reportedError, finish, failingBody]
  · rw [lengthMatches_iff] at hl
    simp [h, hg, hl, he, reportedError, finish, failingBody]
  · rw [lengthMatches_iff] at hl
    simp [h, hg, hl, he, reportedError, finish, commandBody]

/-- The state a command leaves: the issue, then its first error or its body (R136 to R138). -/
theorem resultOf_eq (i : Instr) (s : State) : resultOf i s = finish i (issue i 0 s) (reportedError i s) := by
  rw [← reportedError_issue i i 0 s]
  cases i with
  | rsInit => exact rsInit_eq _
  | rsEncode => exact rsEncode_eq _
  | blockEncode => exact blockEncode_eq _
  | frameInit => exact frameInit_eq _
  | framePlace => exact framePlace_eq _
  | maskApply m => exact maskApply_eq m _
  | maskEval => exact maskEval_eq _
  | encodeSymbol => exact encodeSymbol_eq _
  | nop | reserved9 | reservedA | reservedB | reservedC | reservedD | reservedE | softReset => rfl

/-! ### The registers a command leaves -/

/-- What no command but SOFT_RESET writes keeps its value: the read/write registers in full, and the registers the core
writes where the command's rule does not list them (R14, R72). -/
structure KeepsUnlisted (i : Instr) (r r' : Regs) : Prop where
  config : r'.config = r.config
  dataLen : r'.dataLen = r.dataLen
  irqEn : r'.irqEn = r.irqEn
  rsPoly : r'.rsPoly = r.rsPoly
  rsFcr : r'.rsFcr = r.rsFcr
  rsPrim : r'.rsPrim = r.rsPrim
  rsNroots : r'.rsNroots = r.rsNroots
  rsPad : r'.rsPad = r.rsPad
  rsSrc : r'.rsSrc = r.rsSrc
  cwLen : mayWriteReg i .cwLen = false → r'.cwLen = r.cwLen
  format : mayWriteReg i .format = false → r'.format = r.format
  sel : mayWriteReg i .sel = false → r'.sel = r.sel
  codec : mayWriteReg i .rsAct = false → r'.codec = r.codec
  score : mayWriteReg i (.scoreN1 0) = false → r'.score = r.score

theorem KeepsUnlisted.refl (i : Instr) (r : Regs) : KeepsUnlisted i r r := by
  constructor <;> intros <;> rfl

/-- STATUS is no register that `KeepsUnlisted` speaks of. -/
theorem KeepsUnlisted.of_status {i : Instr} {r r' : Regs} {st st' : Status}
    (h : KeepsUnlisted i { r with status := st } r') : KeepsUnlisted i r { r' with status := st' } :=
  ⟨h.config, h.dataLen, h.irqEn, h.rsPoly, h.rsFcr, h.rsPrim, h.rsNroots, h.rsPad, h.rsSrc, h.cwLen, h.format,
    h.sel, h.codec, h.score⟩

/-- The body of a command keeps the unlisted registers. -/
theorem commandBody_keepsUnlisted {i : Instr} (hi : i ≠ .softReset) (s : State) :
    KeepsUnlisted i s.regs (commandBody i s).regs := by
  cases i
  case softReset => exact absurd rfl hi
  case rsEncode => unfold commandBody; cases s.regs.codec <;> exact .refl _ _
  all_goals
    unfold commandBody
    cases s.regs.geometry <;> constructor <;>
      simp [mayWriteReg, isScoreReg, encodeBody, maskEvalBody, maskApplyBody]

/-- So does a failing command: RS_INIT lists the codec it invalidates (R72, R85). -/
theorem failingBody_keepsUnlisted (i : Instr) (s : State) : KeepsUnlisted i s.regs (failingBody i s).regs := by
  unfold failingBody
  split
  · subst i
    constructor <;> simp [mayWriteReg]
  · exact .refl _ _

/-- A command other than SOFT_RESET keeps the unlisted registers (R72). -/
theorem resultOf_keepsUnlisted {i : Instr} (hi : i ≠ .softReset) (s : State) :
    KeepsUnlisted i s.regs (resultOf i s).regs := by
  rw [resultOf_eq]
  cases reportedError i s with
  | none => exact (commandBody_keepsUnlisted hi (issue i 0 s)).of_status
  | some e => exact (failingBody_keepsUnlisted i (issue i 0 s)).of_status

/-- The body of a command leaves STATUS to the issue and the completion, but for SOFT_RESET, which clears OVR (R131). -/
theorem commandBody_status (i : Instr) (s : State) : (commandBody i s).regs.status =
    if i = .softReset then { s.regs.status with ovr := false } else s.regs.status := by
  cases i
  case rsEncode => unfold commandBody; cases s.regs.codec <;> rfl
  all_goals
    unfold commandBody
    cases s.regs.geometry <;> simp [encodeBody, maskEvalBody, maskApplyBody, softResetRegs]

theorem failingBody_status (i : Instr) (s : State) : (failingBody i s).regs.status = s.regs.status := by
  unfold failingBody
  split <;> rfl

/-- STATUS after a command: the first error it reports or none, its opcode, and OVR kept but for SOFT_RESET (R131, R136
to R138). -/
theorem resultOf_status (i : Instr) (s : State) : (resultOf i s).regs.status =
    statusAfter i.opcode (if i = .softReset then false else s.regs.status.ovr) (reportedError i s) := by
  rw [resultOf_eq]
  cases h : reportedError i s with
  | none =>
    simp only [finish, complete_regs, commandBody_status, issue_regs]
    split <;> rfl
  | some e =>
    have hi : i ≠ .softReset := by
      rintro rfl
      cases h
    simp only [finish, raise_regs, failingBody_status, issue_regs, if_neg hi]
    rfl

/-! ### The memory a command leaves -/

/-- The regions a command stores into (R72). -/
def storedRegions : Instr → List Region
  | .rsInit => [.alphaTo, .indexOf, .genPoly]
  | .rsEncode => [.parBuf]
  | .blockEncode => [.cwBuf]
  | .frameInit => [.grid]
  | .framePlace => [.grid]
  | .maskApply _ => [.out]
  | .maskEval => [.out]
  | .encodeSymbol => [.cwBuf, .grid, .out]
  | _ => []

/-- What holds without a tuple or a legal version, and with one, holds of a body that runs only with one. -/
theorem elim_of_cases {α : Type} (P : State → Prop) {o : Option α} {s : State} {f : α → State} (h : P s)
    (hf : ∀ x, o = some x → P (f x)) : P (o.elim s f) := by
  cases o with
  | none => exact h
  | some x => exact hf x rfl

section StoredBytes

variable {rs : List Region} {m : Memory} {s : State}

/-- RS_INIT stores the three tables, 256 bytes each (R41, R85). -/
theorem stores_captureCodec (t : CodecTuple) (h : Stores rs m s.mem)
    (hr : [Region.alphaTo, .indexOf, .genPoly] ⊆ rs) : Stores rs m (captureCodec t s).mem := by
  have h1 := h.storeBuf .alphaTo (antilogTable t.gfpoly) (hr (by simp)) (by simp [regionSize]) (by simp)
  have h2 := h1.storeBuf .indexOf (logTable t.gfpoly) (hr (by simp)) (by simp [regionSize]) (by simp)
  exact h2.storeBuf .genPoly t.genpolyTable (hr (by simp)) (by simp [regionSize]) (by simp)

variable {g : Geometry} {v : Nat} (hg : geometry v = some g) (h : Stores rs m s.mem)
include hg h

/-- BLOCK_ENCODE stores the version's codewords to CW_BUF (R98). -/
theorem stores_blockEncodeBody (hr : Region.cwBuf ∈ rs) : Stores rs m (blockEncodeBody g s).mem := by
  refine h.storeBuf .cwBuf _ hr ?_ (by simp)
  rw [Regs.blockSpec, length_codewordStream_geometry hg _ (by simp)]
  exact (rowFacts hg).1.le

/-- FRAME_INIT stores a symbol's cells to GRID (R107). -/
theorem stores_frameInitBody (hr : Region.grid ∈ rs) : Stores rs m (frameInitBody g s).mem := by
  have := modules_le hg
  exact h.storeBuf .grid _ hr (by simp [regionSize]; omega) (by simp)

/-- FRAME_PLACE stores a symbol's cells to GRID (R112). -/
theorem stores_framePlaceBody (hr : Region.grid ∈ rs) : Stores rs m (framePlaceBody g s).mem := by
  have := modules_le hg
  exact h.storeBuf .grid _ hr (by simp [regionSize]; omega) (by simp)

/-- A mask command stores the modules of its candidate, 0 or 1 each (R73, R126, R127). -/
theorem stores_writeResult (k : BitVec 3) (board : Vector ScoreEntry 8) {n : Memory} (hr : Region.out ∈ rs) :
    Stores rs m (writeResult g k board (n.gridCells g) s).mem := by
  have := modules_le hg
  refine .store .out 0 _ h hr (by simp [regionSize]; omega) fun _ b hb => ?_
  obtain ⟨dark, -, rfl⟩ := List.mem_map.mp hb
  cases dark <;> simp [outByte]

end StoredBytes

/-- The body of a command but SOFT_RESET stores into the regions of its rule, and nothing past their ends (R72). -/
theorem commandBody_stores {i : Instr} (hi : i ≠ .softReset) (s : State) :
    Stores (storedRegions i) s.mem (commandBody i s).mem := by
  cases i with
  | softReset => exact absurd rfl hi
  | rsInit => exact stores_captureCodec _ .refl (List.Subset.refl _)
  | rsEncode =>
    refine elim_of_cases (Stores _ s.mem ·.mem) .refl fun t _ =>
      Stores.refl.storeBuf .parBuf _ (by simp [storedRegions]) ?_ (by simp)
    exact (length_capturedParity_le t s).trans (by decide)
  | blockEncode =>
    exact elim_of_cases (Stores _ s.mem ·.mem) .refl fun g hg =>
      stores_blockEncodeBody hg .refl (by simp [storedRegions])
  | frameInit =>
    exact elim_of_cases (Stores _ s.mem ·.mem) .refl fun g hg =>
      stores_frameInitBody hg .refl (by simp [storedRegions])
  | framePlace =>
    exact elim_of_cases (Stores _ s.mem ·.mem) .refl fun g hg =>
      stores_framePlaceBody hg .refl (by simp [storedRegions])
  | maskApply k =>
    exact elim_of_cases (Stores _ s.mem ·.mem) .refl fun g hg =>
      stores_writeResult hg .refl k _ (by simp [storedRegions])
  | maskEval =>
    exact elim_of_cases (Stores _ s.mem ·.mem) .refl fun g hg =>
      stores_writeResult hg .refl _ _ (by simp [storedRegions])
  | encodeSymbol =>
    refine elim_of_cases (Stores _ s.mem ·.mem) .refl fun g hg => ?_
    have h1 := stores_blockEncodeBody hg (s := s) (rs := storedRegions .encodeSymbol) .refl (by simp [storedRegions])
    have h2 := stores_frameInitBody hg h1 (by simp [storedRegions])
    have h3 := stores_framePlaceBody hg h2 (by simp [storedRegions])
    exact stores_writeResult hg h3 _ _ (by simp [storedRegions])
  | nop | reserved9 | reservedA | reservedB | reservedC | reservedD | reservedE => exact .refl

/-- The memory after a command: stores into the regions of its rule, or the codec tables cleared (R72, R85, R131). -/
theorem resultOf_mem (i : Instr) (s : State) : Stores (storedRegions i) s.mem (resultOf i s).mem ∨
    ((i = .rsInit ∨ i = .softReset) ∧ (resultOf i s).regs.codec = none ∧ (resultOf i s).mem = clearTables s.mem) := by
  rw [resultOf_eq]
  cases reportedError i s with
  | none =>
    by_cases hi : i = .softReset
    · subst i
      exact .inr ⟨.inr rfl, rfl, rfl⟩
    · exact .inl (commandBody_stores hi (issue i 0 s))
  | some e =>
    by_cases hi : i = .rsInit
    · subst i
      exact .inr ⟨.inl rfl, rfl, rfl⟩
    · simp only [finish, failingBody, if_neg hi]
      exact .inl .refl

end Sys2Proof.Machine
end

section
/-! PROOF. What one step changes of the registers and the memory: a command run, an issue, a reset, or a host input
that leaves the core's own results alone. -/

namespace Sys2Proof.Machine

/-- The regions the host may write (R53, R59). -/
def hostRegions : List Region := [.dataBuf, .cwBuf, .parBuf, .grid]

theorem mem_hostRegions {r : Region} (h : regionWritable r = true) : r ∈ hostRegions := by
  cases r <;> simp [hostRegions, regionWritable] at h ⊢

/-- The engine runs command `i` (R46). -/
def Engine.Runs (e : Engine) (i : Instr) : Prop := ∃ left, e = .busy i left

/-- What a host input other than a reset leaves alone: the running command, the codec, the scoreboard, the error fields
of STATUS (a write can clear DONE but not set it), and the memories the host cannot write (R16, R19, R59, R139). -/
structure HostKeeps (s t : State) : Prop where
  runs : ∀ i, t.engine.Runs i → s.engine.Runs i
  codec : t.regs.codec = s.regs.codec
  score : t.regs.score = s.regs.score
  err : t.regs.status.err = s.regs.status.err
  errcode : t.regs.status.errcode = s.regs.status.errcode
  lastop : t.regs.status.lastop = s.regs.status.lastop
  done : s.regs.status.done = false → t.regs.status.done = false
  mem : Stores hostRegions s.mem t.mem

/-- An answer, a draw, a step of time or a pin level: registers and memory as they were. -/
theorem HostKeeps.of_same {s t : State} (hrun : ∀ i, t.engine.Runs i → s.engine.Runs i)
    (hregs : t.regs = s.regs) (hmem : t.mem = s.mem) : HostKeeps s t := by
  refine ⟨hrun, ?_, ?_, ?_, ?_, ?_, ?_, hmem ▸ .refl⟩ <;> simp [hregs]

theorem HostKeeps.refl (s : State) : HostKeeps s s := .of_same (fun _ => id) rfl rfl

theorem HostKeeps.respond {s t : State} (h : HostKeeps s t) (a : Response) : HostKeeps s (respond a t) :=
  ⟨h.runs, h.codec, h.score, h.err, h.errcode, h.lastop, h.done, h.mem⟩

/-- Another state of the ports, or fewer steps left, before the input is no matter. -/
theorem HostKeeps.of_ports {s u t : State} (h : HostKeeps u t) (hrun : ∀ i, u.engine.Runs i → s.engine.Runs i)
    (hregs : u.regs = s.regs) (hmem : u.mem = s.mem) : HostKeeps s t := by
  obtain ⟨runs, codec, score, err, errcode, lastop, done, mem⟩ := h
  rw [hregs] at codec score err errcode lastop done
  rw [hmem] at mem
  exact ⟨fun i ht => hrun i (runs i ht), codec, score, err, errcode, lastop, done, mem⟩

theorem readIdle_keeps (addr : Addr) (size : Size) (s : State) : HostKeeps s (readIdle addr size s) := by
  unfold readIdle
  split <;> exact (HostKeeps.refl s).respond _

theorem writeReg_keeps (v : Word) (s : State) (r : Reg) : HostKeeps s (writeReg v s r) := by
  cases r
  case status => exact ⟨fun _ => id, rfl, rfl, rfl, rfl, rfl, fun h => by simp [writeReg, h], .refl⟩
  all_goals exact ⟨fun _ => id, rfl, rfl, rfl, rfl, rfl, id, .refl⟩

/-- A host write of a memory stays inside a region that the host may write (R56, R59). -/
theorem writeMem_keeps {r : Region} {addr : Addr} {size : Size} (data : Word) (s : State)
    (ht : target addr size = some (.memory r)) : HostKeeps s (writeMem r addr size data s) := by
  obtain ⟨hr, ha⟩ := target_memory ht
  unfold writeMem
  split
  · rename_i hw
    have hin := regionOf_eq_some hr
    have hend := aligned_in_region hr ha
    have haddr : regionBase r + (addr.toNat - regionBase r) = addr.toNat := by omega
    have hstore := Stores.refl.store (rs := hostRegions) (m := s.mem) r (addr.toNat - regionBase r)
      (splitLE size.bytes data) (mem_hostRegions hw) (by simp [splitLE]; omega) (by rintro rfl; cases hw)
    rw [haddr] at hstore
    exact ⟨fun _ => id, rfl, rfl, rfl, rfl, rfl, id, hstore⟩
  · exact .refl s

theorem writeIdle_keeps (addr : Addr) (size : Size) (data : Word) (s : State) :
    HostKeeps s (writeIdle addr size data s) := by
  unfold writeIdle
  split
  · exact (HostKeeps.refl s).respond _
  · exact (writeReg_keeps data s _).respond _
  · exact (writeMem_keeps data s ‹_›).respond _

theorem writeInReset_keeps (addr : Addr) (size : Size) (s : State) : HostKeeps s (writeInReset addr size s) := by
  unfold writeInReset
  split <;> exact (HostKeeps.refl s).respond _

theorem readBusy_keeps (i : Instr) (addr : Addr) (size : Size) (s : State) : HostKeeps s (readBusy i addr size s) := by
  unfold readBusy
  split <;> exact .of_same (fun _ => id) rfl rfl

theorem writeBusy_keeps (addr : Addr) (size : Size) (s : State) : HostKeeps s (writeBusy addr size s) := by
  unfold writeBusy
  split
  · exact (HostKeeps.refl s).respond _
  · exact ⟨fun _ => id, rfl, rfl, rfl, rfl, rfl, id, .refl⟩

theorem txnIdle_keeps (t : Txn) (s : State) : HostKeeps s (txnIdle t s) := by
  cases t with
  | read addr size => exact readIdle_keeps addr size s
  | write addr size data =>
    simp only [txnIdle]
    split
    · exact writeIdle_keeps addr size data s
    · exact writeInReset_keeps addr size s

theorem txnBusy_keeps (i : Instr) (t : Txn) (s : State) : HostKeeps s (txnBusy i t s) := by
  cases t with
  | read addr size => exact readBusy_keeps i addr size s
  | write addr size data => exact writeBusy_keeps addr size s

/-- The core after a reset by `rst_n` or power-on (R150): every codec byte, and maybe others, forgotten. -/
structure WasReset (s t : State) : Prop where
  engine : t.engine = .idle
  regs : t.regs = Regs.reset
  mem : ∃ p : Nat → Bool, (∀ a, isTableAddr a = true → p a = true) ∧ t.mem = s.mem.forget p

theorem assertReset_wasReset (s : State) : WasReset s (assertReset s) := by
  refine ⟨rfl, rfl, ?_⟩
  simp only [assertReset, abandonedMem]
  split
  · exact ⟨isTableAddr, fun _ h => h, rfl⟩
  · exact ⟨_, fun a h => by simp [h], forget_forget _ _ _⟩

theorem powerOn_wasReset (s : State) : WasReset s (powerOn s) :=
  ⟨rfl, rfl, fun _ => true, fun _ _ => rfl, (forget_all _).symm⟩

/-- An input while IDLE resets the core or keeps its results. -/
theorem inputIdle_effect (n : Input) (s : State) : WasReset s (inputIdle n s) ∨ HostKeeps s (inputIdle n s) := by
  cases n with
  | txn t => exact .inr (txnIdle_keeps t s)
  | rstPin high =>
    cases high with
    | true => exact .inr (.of_same (fun _ => id) rfl rfl)
    | false => exact .inl (assertReset_wasReset s)
  | powerOn => exact .inl (powerOn_wasReset s)
  | quiet => exact .inr (.refl s)

/-- An input while BUSY does the same but for a transaction. -/
theorem inputBusy_effect (i : Instr) (n : Input) (s : State) :
    WasReset s (inputBusy i n s) ∨ HostKeeps s (inputBusy i n s) := by
  cases n with
  | txn t => exact .inr (txnBusy_keeps i t s)
  | rstPin high => exact inputIdle_effect (.rstPin high) s
  | powerOn => exact inputIdle_effect .powerOn s
  | quiet => exact inputIdle_effect .quiet s

theorem whileIdle_effect (s : State) : WasReset s (whileIdle s) ∨ HostKeeps s (whileIdle s) := by
  unfold whileIdle
  split
  · exact .inr (.refl s)
  · rename_i n rest _
    rcases inputIdle_effect n { s with inputs := rest } with h | h
    · exact .inl ⟨h.engine, h.regs, h.mem⟩
    · exact .inr (h.of_ports (fun _ => id) rfl rfl)

theorem whileBusy_effect {s : State} {i : Instr} {k : Nat} (he : s.engine = .busy i k) (left : Nat) :
    WasReset s (whileBusy i left s) ∨ HostKeeps s (whileBusy i left s) := by
  have hrun : ∀ j, (Engine.busy i left).Runs j → s.engine.Runs j := by
    rintro j ⟨n, h⟩
    cases h
    exact ⟨k, he⟩
  unfold whileBusy
  split
  · exact .inr (.of_same hrun rfl rfl)
  · rename_i n rest _
    rcases inputBusy_effect i n { s with inputs := rest, engine := .busy i left } with h | h
    · exact .inl ⟨h.engine, h.regs, h.mem⟩
    · exact .inr (h.of_ports hrun rfl rfl)

/-- What one step changes of the registers and the memory: it runs a command, issues one, resets the core, or takes an
input that keeps the core's results. -/
theorem step_effect {s t : State} (h : step s = .next t) :
    (∃ i u, u.regs = s.regs ∧ u.mem = s.mem ∧ t = resultOf i u) ∨
    (∃ i n u, u.regs = s.regs ∧ u.mem = s.mem ∧ t = issue i n u) ∨
    WasReset s t ∨ HostKeeps s t := by
  rcases step_cases h with ⟨i, -, rfl⟩ | ⟨i, left, he, rfl⟩ | ⟨-, -, rfl⟩ | ⟨c, -, -, -, rfl⟩ | ⟨c, left, -, -, -, rfl⟩
  · exact .inl ⟨i, s, rfl, rfl, rfl⟩
  · exact .inr (.inr (whileBusy_effect he left))
  · exact .inr (.inr (whileIdle_effect s))
  · exact .inl ⟨decode c, acceptCommand s, rfl, rfl, rfl⟩
  · exact .inr (.inl ⟨decode c, left + 1, acceptCommand s, rfl, rfl, rfl⟩)

end Sys2Proof.Machine
end

section
/-! PROOF. The invariants every step keeps: the canonical memory, binary OUT, the codec tables, the scoreboard and
STATUS. -/

namespace Sys2Proof.Machine

/-! ### The memory: canonical form and OUT -/

/-- A step stores bytes inside regions or forgets bytes; a property that both keep, every step keeps. -/
theorem step_mem_induction {P : Memory → Prop} (hstore : ∀ {rs m n}, Stores rs m n → P m → P n)
    (hforget : ∀ {m} p, P m → P (Memory.forget m p)) {s t : State} (h : step s = .next t) (hs : P s.mem) : P t.mem := by
  rcases step_effect h with ⟨i, u, -, hmem, rfl⟩ | ⟨i, n, u, -, hmem, rfl⟩ | hr | hk
  · rcases resultOf_mem i u with hst | ⟨-, -, hcl⟩
    · exact hstore hst (hmem ▸ hs)
    · rw [hcl, hmem]
      exact hforget _ hs
  · rwa [issue_mem, hmem]
  · obtain ⟨p, -, hp⟩ := hr.mem
    rw [hp]
    exact hforget p hs
  · exact hstore hk.mem hs

/-- Settles O55: every change of the memory is a store inside a region or a forget. -/
theorem stepKeepsTheMemoryCanonical : Obligations.StepKeepsTheMemoryCanonical := by
  intro s t hs h
  exact step_mem_induction (P := Memory.wf) Stores.wf (fun p hm => forget_wf _ p hm) h hs

/-- Settles O60: no store reaches OUT but a mask command's, of modules. -/
theorem stepKeepsOutBinary : Obligations.StepKeepsOutBinary := by
  intro s t hs h
  rw [outBinary_iff] at hs ⊢
  exact step_mem_induction Stores.outBytesBinary (fun p hm => forget_outBytesBinary hm p) h hs

/-! ### The codec -/

/-- Coherence is a matter of the captured tuple and the table bytes alone. -/
theorem CodecCoherent.congr {s t : State} (hs : CodecCoherent s) (hc : t.regs.codec = s.regs.codec)
    (hm : ∀ a, isTableAddr a = true → t.mem.read a = s.mem.read a) : CodecCoherent t := by
  unfold CodecCoherent at hs ⊢
  rw [hc]
  split at hs
  · intro a ha
    rw [hm a ha, hs a ha]
  · refine ⟨hs.1, fun k hk => ?_⟩
    have htable : ∀ base ∈ [regionBase .alphaTo, regionBase .indexOf, regionBase .genPoly],
        t.mem.read (base + k) = s.mem.read (base + k) := by
      intro base hb
      apply hm
      simp only [List.mem_cons, List.not_mem_nil, or_false, regionBase] at hb
      simp only [isTableAddr, Bool.and_eq_true, decide_eq_true_eq]
      omega
    rw [htable _ (by simp), htable _ (by simp), htable _ (by simp)]
    exact hs.2 k hk

/-- Stores away from the tables leave their bytes alone. -/
theorem Stores.read_table {rs : List Region} {m n : Memory} (h : Stores rs m n)
    (hrs : ∀ r ∈ rs, r ∉ [Region.alphaTo, .indexOf, .genPoly]) {a : Nat} (ha : isTableAddr a = true) :
    n.read a = m.read a := h.read_eq fun r hr => inRegion_of_isTableAddr ha (hrs r hr)

/-- Without a tuple, tables that were forgotten are coherent: they read 0 (R41, R50). -/
theorem codecCoherent_of_forget {s : State} {m : Memory} {p : Nat → Bool} (hc : s.regs.codec = none)
    (hp : ∀ a, isTableAddr a = true → p a = true) (hm : s.mem = m.forget p) : CodecCoherent s := by
  unfold CodecCoherent
  rw [hc]
  intro a ha
  rw [hm, read_forget, hp a ha, if_pos rfl, unlisted_table ha]

/-- A whole table stored from a region's start, read back. -/
theorem read_storeBuf_same (m : Memory) (r : Region) (bytes : List Byte) {k : Nat} (h : k < bytes.length) :
    (m.storeBuf r bytes).read (regionBase r + k) = bytes.getD k 0 := by
  rw [Memory.storeBuf, read_store_inside _ _ _ _ h, List.getD_eq_getElem _ _ h]

/-- A store that fits its region leaves the bytes of another region alone (R53). -/
theorem read_storeBuf_other (m : Memory) {r q : Region} (bytes : List Byte) {k : Nat} (hq : q ≠ r)
    (hk : k < regionSize q) (hlen : bytes.length ≤ regionSize r) :
    (m.storeBuf r bytes).read (regionBase q + k) = m.read (regionBase q + k) := by
  have hin := inRegion_offset q r k hk
  have hnot : ¬ (regionBase r ≤ regionBase q + k ∧ regionBase q + k < regionBase r + regionSize r) := by
    rw [← inRegion_iff, hin]
    simpa using fun e : r = q => hq e.symm
  exact read_store_outside _ _ _ _ (by omega)

/-- RS_INIT on a valid tuple leaves the tuple's own tables (R81, R84, R85). -/
theorem captureCodec_coherent {t : CodecTuple} (ht : t.valid = true) (s : State) :
    CodecCoherent (captureCodec t s) := by
  refine ⟨ht, fun k hk => ?_⟩
  rw [captureCodec_mem]
  refine ⟨?_, ?_, ?_⟩
  · rw [read_storeBuf_other _ _ (by decide) hk (by simp [regionSize]),
      read_storeBuf_other _ _ (by decide) hk (by simp [regionSize]), read_storeBuf_same _ _ _ (by simpa using hk)]
  · rw [read_storeBuf_other _ _ (by decide) hk (by simp [regionSize]), read_storeBuf_same _ _ _ (by simpa using hk)]
  · rw [read_storeBuf_same _ _ _ (by simpa using hk)]

/-- A command other than RS_INIT and SOFT_RESET leaves the codec and its tables alone (R45, R72). -/
theorem resultOf_codec {i : Instr} (hi : i ≠ .rsInit) (hr : i ≠ .softReset) (s : State) :
    (resultOf i s).regs.codec = s.regs.codec ∧
      ∀ a, isTableAddr a = true → (resultOf i s).mem.read a = s.mem.read a := by
  have hst : Stores (storedRegions i) s.mem (resultOf i s).mem :=
    (resultOf_mem i s).resolve_right fun h => h.1.elim hi hr
  constructor
  · exact (resultOf_keepsUnlisted hr s).codec (by cases i <;> simp [mayWriteReg, isScoreReg] at hi hr ⊢)
  · exact fun a ha => hst.read_table (by cases i <;> simp [storedRegions] at hi ⊢) ha

/-- Every command keeps the tables those of the captured tuple (R41, R44). -/
theorem resultOf_codecCoherent (i : Instr) {s : State} (hs : CodecCoherent s) : CodecCoherent (resultOf i s) := by
  by_cases hi : i = .rsInit
  · subst i
    change CodecCoherent (rsInit (issue .rsInit 0 s))
    rcases rsInit_cases (issue .rsInit 0 s) with ⟨hv, h⟩ | ⟨-, h⟩ <;> rw [h]
    · exact (captureCodec_coherent hv _).congr rfl fun _ _ => rfl
    · exact codecCoherent_of_forget (m := s.mem) rfl (fun _ => id) rfl
  by_cases hr : i = .softReset
  · subst i
    exact codecCoherent_of_forget (m := s.mem) rfl (fun _ => id) rfl
  · obtain ⟨hc, hm⟩ := resultOf_codec hi hr s
    exact hs.congr hc hm

/-- Settles O56: only RS_INIT, SOFT_RESET and the resets touch the tuple or its tables. -/
theorem stepKeepsTheCodecCoherent : Obligations.StepKeepsTheCodecCoherent := by
  intro s t hs h
  rcases step_effect h with ⟨i, u, hregs, hmem, rfl⟩ | ⟨i, n, u, hregs, hmem, rfl⟩ | hr | hk
  · exact resultOf_codecCoherent i (hs.congr (by rw [hregs]) fun a _ => by rw [hmem])
  · exact hs.congr (by simp [hregs]) fun a _ => by simp [hmem]
  · obtain ⟨p, hp, hm⟩ := hr.mem
    exact codecCoherent_of_forget (by rw [hr.regs]; rfl) hp hm
  · exact hs.congr hk.codec fun a ha => hk.mem.read_table (by simp [hostRegions]) ha

/-! ### The scoreboard -/

/-- An entry computed for a legal version is coherent (R38, R122, R123). -/
theorem scoreOf_coherent {v : Nat} {g : Geometry} (hg : geometry v = some g) (lvl : Level) (m : BitVec 3)
    {cells : List Byte} (hc : cells.length = g.modules) : (scoreOf g lvl cells m).coherent := by
  obtain ⟨hsum, hlt, -, hdark⟩ :=
    penalties_bounded (c := candidate g.width lvl m cells) (width_le hg) ((length_candidate _ _ _ _).trans hc)
  exact .inr ⟨hsum, hlt, hdark⟩

/-- The entry of a mask in a scoreboard given mask by mask. -/
theorem scoreboard_get (f : BitVec 3 → ScoreEntry) (m : BitVec 3) : (scoreboard f).get m.toFin = f m := by
  have key : ∀ k : Fin 8, (scoreboard f).get k = f (BitVec.ofFin k) := by
    intro k
    fin_cases k <;> rfl
  exact key m.toFin

/-- A scoreboard of coherent entries is coherent. -/
theorem scoreboard_coherent {r : Regs} {f : BitVec 3 → ScoreEntry} (hr : r.score = scoreboard f)
    (hf : ∀ m, (f m).coherent) (m : BitVec 3) : (r.scoreEntry m).coherent := by
  rw [Regs.scoreEntry, hr, scoreboard_get]
  exact hf m

/-- Coherence is a matter of the scoreboard alone. -/
theorem ScoreboardCoherent.congr {s t : State} (hs : ScoreboardCoherent s) (h : t.regs.score = s.regs.score) :
    ScoreboardCoherent t := by
  intro m
  rw [Regs.scoreEntry, h]
  exact hs m

/-- At reset no mask is evaluated (R50). -/
theorem reset_scoreboardCoherent {s : State} (h : s.regs.score = Regs.reset.score) : ScoreboardCoherent s :=
  scoreboard_coherent (f := fun _ => .notEvaluated) h fun _ => .inl rfl

/-- MASK_APPLY scores its own mask and no other (R126). -/
theorem maskApplyBody_coherent {v : Nat} {g : Geometry} (hg : geometry v = some g) (m : BitVec 3) (s : State) :
    ScoreboardCoherent (maskApplyBody g m s) := by
  refine scoreboard_coherent (f := fun k =>
    if k = m then scoreOf g s.regs.level (s.mem.gridCells g) m else .notEvaluated) rfl fun k => ?_
  split
  · exact scoreOf_coherent hg _ _ (by simp)
  · exact .inl rfl

/-- MASK_EVAL scores the masks of MASK_EN and no other (R127). -/
theorem maskEvalBody_coherent {v : Nat} {g : Geometry} (hg : geometry v = some g) (s : State) :
    ScoreboardCoherent (maskEvalBody g s) := by
  refine scoreboard_coherent (f := fun k =>
    if isCandidate s.regs.config.maskEn k then scoreOf g s.regs.level (s.mem.gridCells g) k
    else .notEvaluated) rfl fun k => ?_
  split
  · exact scoreOf_coherent hg _ _ (by simp)
  · exact .inl rfl

/-- ENCODE ends with MASK_EVAL, SOFT_RESET resets, and the other bodies keep the scoreboard (R72, R129, R131). -/
theorem commandBody_scoreboardCoherent (i : Instr) {s : State} (hs : ScoreboardCoherent s) :
    ScoreboardCoherent (commandBody i s) := by
  cases i with
  | maskApply m => exact elim_of_cases ScoreboardCoherent hs fun g hg => maskApplyBody_coherent hg m s
  | maskEval => exact elim_of_cases ScoreboardCoherent hs fun g hg => maskEvalBody_coherent hg s
  | encodeSymbol => exact elim_of_cases ScoreboardCoherent hs fun g hg => maskEvalBody_coherent hg _
  | softReset => exact reset_scoreboardCoherent rfl
  | nop | rsInit | rsEncode | blockEncode | frameInit | framePlace
  | reserved9 | reservedA | reservedB | reservedC | reservedD | reservedE =>
    exact hs.congr ((commandBody_keepsUnlisted (by simp) s).score rfl)

theorem resultOf_scoreboardCoherent (i : Instr) {s : State} (hs : ScoreboardCoherent s) :
    ScoreboardCoherent (resultOf i s) := by
  rw [resultOf_eq]
  cases reportedError i s with
  | none => exact commandBody_scoreboardCoherent i (s := issue i 0 s) hs
  | some e =>
    refine hs.congr ?_
    simp only [finish, failingBody]
    split <;> rfl

/-- Settles O59: the mask commands write "not evaluated" and bounded sums, and nothing else writes the scoreboard but
the resets. -/
theorem stepKeepsTheScoreboardCoherent : Obligations.StepKeepsTheScoreboardCoherent := by
  intro s t hs h
  rcases step_effect h with ⟨i, u, hregs, -, rfl⟩ | ⟨i, n, u, hregs, -, rfl⟩ | hr | hk
  · exact resultOf_scoreboardCoherent i (hs.congr (by rw [hregs]))
  · exact hs.congr (by simp [hregs])
  · exact reset_scoreboardCoherent (by rw [hr.regs])
  · exact hs.congr hk.score

/-! ### STATUS -/

/-- With the engine IDLE, STATUS is coherent when it reports one command's error or none (R134, R138). -/
theorem statusCoherent_of_statusAfter {s : State} {op : BitVec 4} {ovr : Bool} {e : Option CmdError}
    (hi : s.engine = .idle) (hst : s.regs.status = statusAfter op ovr e) : StatusCoherent s := by
  have hcode : ∀ e : CmdError, e.code ≠ 0#4 ∧ e.code.toNat ≤ 7 := by
    intro e
    cases e <;> decide
  refine ⟨?_, ?_, fun i left h => ?_⟩
  · cases e <;> simp [hst, statusAfter, hcode]
  · cases e <;> simp [hst, statusAfter, hcode]
  · rw [hi] at h
    contradiction

theorem resultOf_engine (i : Instr) (s : State) : (resultOf i s).engine = .idle :=
  (exec_ports i s _ (exec_eq i s)).1

/-- Settles O57: an issue clears the error fields, a completion sets them together, and no input changes them. -/
theorem stepKeepsStatusCoherent : Obligations.StepKeepsStatusCoherent := by
  intro s t hs h
  rcases step_effect h with ⟨i, u, hregs, -, rfl⟩ | ⟨i, n, u, hregs, -, rfl⟩ | hr | hk
  · exact statusCoherent_of_statusAfter (resultOf_engine i u) (resultOf_status i u)
  · refine ⟨by simp, by simp, fun j left hj => ?_⟩
    cases hj
    simp
  · refine ⟨by rw [hr.regs]; decide, by rw [hr.regs]; decide, fun i left hi => ?_⟩
    rw [hr.engine] at hi
    contradiction
  · obtain ⟨herr, hcode, hbusy⟩ := hs
    refine ⟨by rw [hk.err, hk.errcode]; exact herr, by rw [hk.errcode]; exact hcode, fun i left hi => ?_⟩
    obtain ⟨n, hn⟩ := hk.runs i ⟨left, hi⟩
    obtain ⟨hdone, he, hop⟩ := hbusy i n hn
    exact ⟨hk.done hdone, hk.err.trans he, hk.lastop.trans hop⟩

end Sys2Proof.Machine
end

section
/-! PROOF. The registers as the host reads them: what a command leaves unread (R72), the registers computed from CONFIG
(R34 to R37), and a write read back (R16). -/

namespace Sys2Proof.Machine

/-! The version's row, the level and the block structure are read from CONFIG alone (R21, R22, R92). -/

theorem geometry_congr {r r' : Regs} (h : r'.config = r.config) : r'.geometry = r.geometry := by
  simp only [Regs.geometry, Regs.version, h]

theorem level_congr {r r' : Regs} (h : r'.config = r.config) : r'.level = r.level := by
  simp only [Regs.level, h]

theorem blockSpec_congr {r r' : Regs} (h : r'.config = r.config) (g : Geometry) : r'.blockSpec g = r.blockSpec g := by
  simp only [Regs.blockSpec, level_congr h]

/-- A command lists the whole scoreboard or none of it (R72). -/
theorem mayWriteReg_score (i : Instr) {r : Reg} (hr : isScoreReg r = true) :
    mayWriteReg i r = mayWriteReg i (.scoreN1 0) := by
  cases r
  case scoreN1 | scoreN2 | scoreN3 | scoreN4 | scoreTotal | scoreDark => cases i <;> rfl
  all_goals cases hr

/-- A register reads the same where a command keeps the unlisted registers, STATUS apart (R14, R72). -/
theorem readReg_of_keepsUnlisted {i : Instr} {s t : State} (h : KeepsUnlisted i s.regs t.regs) {r : Reg}
    (hr : mayWriteReg i r = false) : readReg t r = readReg s r := by
  have hgeom := geometry_congr h.config
  have hlevel := level_congr h.config
  have hscore : isScoreReg r = true → t.regs.score = s.regs.score := fun hs =>
    h.score ((mayWriteReg_score i hs).symm.trans hr)
  cases r
  case status => simp [mayWriteReg] at hr
  case cwLen => simp [readReg, h.cwLen hr]
  case format => simp [readReg, h.format hr]
  case sel => simp [readReg, h.sel hr]
  case rsAct => simp [readReg, h.codec hr]
  case scoreN1 | scoreN2 | scoreN3 | scoreN4 | scoreTotal | scoreDark =>
    simp [readReg, Regs.scoreEntry, hscore rfl]
  all_goals
    simp [readReg, h.config, h.dataLen, h.irqEn, h.rsPoly, h.rsFcr, h.rsPrim, h.rsNroots, h.rsPad, h.rsSrc, hgeom,
      hlevel]

/-- Settles O12: SOFT_RESET lists all but the constants, and every other command keeps the unlisted registers. -/
theorem commandsWriteNoUnlistedRegister : Obligations.CommandsWriteNoUnlistedRegister := by
  refine fun i s => ⟨_, exec_eq i s, fun r hr => ?_⟩
  by_cases hi : i = .softReset
  · subst i
    cases r <;> simp [mayWriteReg] at hr <;> rfl
  · exact readReg_of_keepsUnlisted (resultOf_keepsUnlisted hi s) hr

/-! ### GEOM, CAP, BLK and VERINFO -/

/-- A version outside 1 to 40 has no row (R21). -/
theorem geometry_illegal {v : Nat} (h : v = 0 ∨ 40 < v) : geometry v = none := by
  cases hg : geometry v with
  | none => rfl
  | some g =>
    have := List.mem_range'_1.mp (geometry_version hg).1
    omega

/-- The level field selects its column: 0, 1, 2, 3 = L, M, Q, H (R22). -/
theorem ofField_column {α : Type} (f : BitVec 2) (col : Level → α) :
    [col .L, col .M, col .Q, col .H][f.toNat]? = some (col (Level.ofField f)) := by
  have h : f = 0 ∨ f = 1 ∨ f = 2 ∨ f = 3 := by
    revert f
    decide
  rcases h with rfl | rfl | rfl | rfl <;> rfl

/-- The fields of a word of four parts, from the lowest on. -/
theorem extractLsb'_fields {m n p q : Nat} (a : BitVec m) (b : BitVec n) (c : BitVec p) (d : BitVec q) :
    (a ++ b ++ c ++ d).extractLsb' 0 q = d ∧ (a ++ b ++ c ++ d).extractLsb' q p = c ∧
      (a ++ b ++ c ++ d).extractLsb' (q + p) n = b ∧ (a ++ b ++ c ++ d).extractLsb' (q + p + n) m = a := by
  refine ⟨BitVec.extractLsb'_append_eq_right, ?_, ?_, ?_⟩
  · rw [BitVec.extractLsb'_append_eq_of_le le_rfl, Nat.sub_self, BitVec.extractLsb'_append_eq_right]
  · rw [BitVec.extractLsb'_append_eq_of_le (by omega), Nat.add_sub_cancel_left,
      BitVec.extractLsb'_append_eq_of_le le_rfl, Nat.sub_self, BitVec.extractLsb'_append_eq_right]
  · have hstart : q + p + n - q - p = n := by omega
    rw [BitVec.extractLsb'_append_eq_of_le (by omega), BitVec.extractLsb'_append_eq_of_le (by omega), hstart,
      BitVec.extractLsb'_append_eq_left]

/-- A number that fits its field is read back from it. -/
theorem toNat_field {w n : Nat} {x : BitVec w} (hx : x = BitVec.ofNat w n) (h : n < 2 ^ w) : x.toNat = n := by
  rw [hx, BitVec.toNat_ofNat, Nat.mod_eq_of_lt h]

/-- GEOM of a row (R34). -/
theorem geomWord_fields (g : Geometry) :
    (geomWord (some g)).extractLsb' 0 8 = BitVec.ofNat 8 g.width ∧
    (geomWord (some g)).extractLsb' 8 4 = BitVec.ofNat 4 g.rem ∧
    (geomWord (some g)).extractLsb' 12 4 = BitVec.ofNat 4 g.align.length ∧
    (geomWord (some g)).extractLsb' 16 16 = 0#16 := extractLsb'_fields _ _ _ _

/-- CAP of a row (R35). -/
theorem capWord_fields (lvl : Level) (g : Geometry) :
    (capWord lvl (some g)).extractLsb' 0 12 = BitVec.ofNat 12 g.total ∧
    (capWord lvl (some g)).extractLsb' 12 4 = 0#4 ∧
    (capWord lvl (some g)).extractLsb' 16 12 = BitVec.ofNat 12 (g.blocks.at lvl).data ∧
    (capWord lvl (some g)).extractLsb' 28 4 = 0#4 := extractLsb'_fields _ _ _ _

/-- BLK of a row (R36). -/
theorem blkWord_fields (lvl : Level) (g : Geometry) :
    (blkWord lvl (some g)).extractLsb' 0 8 = BitVec.ofNat 8 (g.blocks.at lvl).b1 ∧
    (blkWord lvl (some g)).extractLsb' 8 8 = BitVec.ofNat 8 (g.blocks.at lvl).b2 ∧
    (blkWord lvl (some g)).extractLsb' 16 8 = BitVec.ofNat 8 (g.blocks.at lvl).dl1 ∧
    (blkWord lvl (some g)).extractLsb' 24 8 = BitVec.ofNat 8 (g.blocks.at lvl).ecc := extractLsb'_fields _ _ _ _

/-- VERINFO of a row (R37). -/
theorem verinfoWord_eq (g : Geometry) : verinfoWord (some g) = g.vword.setWidth 32 := by
  rw [BitVec.setWidth_eq_append (by decide)]
  rfl

/-- VERINFO holds the version word that R105 computes from version 7 on, and 0 below. -/
theorem verinfoWord_computed {g : Geometry} (h : RowFacts g) : verinfoWord (some g) =
    if 7 ≤ g.version then (versionWordComputed g.version).setWidth 32 else 0 := by
  obtain ⟨-, -, -, hvword⟩ := h
  rw [verinfoWord_eq, hvword]
  split <;> rfl

/-- GEOM of a legal version, read as numbers (R34). -/
theorem readReg_geom {s : State} {g : Geometry} (hg : s.regs.geometry = some g) :
    ((readReg s .geom).extractLsb' 0 8).toNat = g.width ∧ ((readReg s .geom).extractLsb' 8 4).toNat = g.rem ∧
    ((readReg s .geom).extractLsb' 12 4).toNat = g.align.length ∧ (readReg s .geom).extractLsb' 16 16 = 0 := by
  obtain ⟨-, hrem, halign, -⟩ := rowFacts hg
  obtain ⟨hv, hgv⟩ := geometry_version hg
  have hwidth := width_le hg
  have halign16 : g.align.length < 16 := by
    rw [List.mem_range'_1] at hv
    rw [halign]
    split <;> omega
  simp only [readReg, hg]
  obtain ⟨h0, h8, h12, h16⟩ := geomWord_fields g
  exact ⟨toNat_field h0 (by omega), toNat_field h8 hrem, toNat_field h12 halign16, h16⟩

/-- CAP of a legal version, read as numbers (R35). -/
theorem readReg_cap {s : State} {g : Geometry} (hg : s.regs.geometry = some g) :
    ((readReg s .cap).extractLsb' 0 12).toNat = g.total ∧
    ((readReg s .cap).extractLsb' 16 12).toNat = (s.regs.blockSpec g).data ∧
    (readReg s .cap).extractLsb' 12 4 = 0 ∧ (readReg s .cap).extractLsb' 28 4 = 0 := by
  have htotal := (rowFacts hg).1
  obtain ⟨-, -, -, -, -, hsum⟩ := blockFacts hg s.regs.level
  have hdata : (g.blocks.at s.regs.level).data < 4096 := by omega
  simp only [readReg, hg]
  obtain ⟨h0, h12, h16, h28⟩ := capWord_fields s.regs.level g
  exact ⟨toNat_field h0 htotal, toNat_field h16 hdata, h12, h28⟩

/-- BLK of a legal version, read as numbers (R36). -/
theorem readReg_blk {s : State} {g : Geometry} (hg : s.regs.geometry = some g) :
    ((readReg s .blk).extractLsb' 0 8).toNat = (s.regs.blockSpec g).b1 ∧
    ((readReg s .blk).extractLsb' 8 8).toNat = (s.regs.blockSpec g).b2 ∧
    ((readReg s .blk).extractLsb' 16 8).toNat = (s.regs.blockSpec g).dl1 ∧
    ((readReg s .blk).extractLsb' 24 8).toNat = (s.regs.blockSpec g).ecc := by
  obtain ⟨-, hecc, hb1, hb2, hdl1, -⟩ := blockFacts hg s.regs.level
  simp only [readReg, hg]
  obtain ⟨h0, h8, h16, h24⟩ := blkWord_fields s.regs.level g
  exact ⟨toNat_field h0 hb1, toNat_field h8 hb2, toNat_field h16 hdl1, toNat_field h24 hecc⟩

/-- For an illegal version the computed registers read 0 (R34 to R37). -/
theorem readReg_computed_illegal {s : State} (hg : s.regs.geometry = none) :
    readReg s .geom = 0 ∧ readReg s .cap = 0 ∧ readReg s .blk = 0 ∧ readReg s .verinfo = 0 := by
  simp [readReg, hg, geomWord, capWord, blkWord, verinfoWord]

/-- Settles O23: the words are fields side by side, and every field of the tables' 160 rows fits its place. -/
theorem computedRegistersFollowConfig : Obligations.ComputedRegistersFollowConfig := by
  intro s v geom cap blk b1 b2 dl1 ecc
  refine ⟨ofField_column s.regs.config.level id, ?_⟩
  by_cases hv : 1 ≤ v ∧ v ≤ 40
  · obtain ⟨g, hg⟩ := Option.isSome_iff_exists.mp (geometry_isSome_table v (List.mem_range'_1.mpr (by omega)))
    have hregs : s.regs.geometry = some g := hg
    have hcolumn := ofField_column s.regs.config.level g.blocks.at
    obtain ⟨-, -, hlength, -⟩ := rowFacts hg
    obtain ⟨-, -, -, -, -, hsum⟩ := blockFacts hg s.regs.level
    have hgv : g.version = v := (geometry_version hg).2
    obtain ⟨hw, hrem, halign, hgeom0⟩ := readReg_geom hregs
    obtain ⟨htotal, hdata, hcap12, hcap28⟩ := readReg_cap hregs
    obtain ⟨hb1, hb2, hdl1, hecc⟩ : b1 = (s.regs.blockSpec g).b1 ∧ b2 = (s.regs.blockSpec g).b2 ∧
      dl1 = (s.regs.blockSpec g).dl1 ∧ ecc = (s.regs.blockSpec g).ecc := readReg_blk hregs
    have hver : readReg s .verinfo = verinfoWord (some g) := congrArg verinfoWord hregs
    refine ⟨fun _ => ⟨g, s.regs.blockSpec g, hg, hcolumn, rfl, hw, hrem, halign, htotal, hdata, hcap12, hcap28, hb1,
      hb2, hdl1, hecc, hver.trans (verinfoWord_eq g)⟩, fun _ => ⟨?_, ?_, hgeom0, ?_, ?_, ?_⟩, fun h => by omega⟩
    · rw [hw, ← hgv]
      rfl
    · rw [halign, hlength, hgv]
    · rw [hdata, hb1, hb2, hdl1]
      rfl
    · rw [htotal, hdata, hb1, hb2, hecc]
      exact hsum
    · rw [hver, verinfoWord_computed (rowFacts hg), hgv]
  · have hnone : s.regs.geometry = none := geometry_illegal (v := v) (by omega)
    exact ⟨fun h => absurd h hv, fun h => absurd h hv, fun _ => readReg_computed_illegal hnone⟩

end Sys2Proof.Machine
end

section
/-! PROOF. The QR path does not see the programmable codec (R45): BLOCK_ENCODE and ENCODE read and write the same bytes
whatever the codec tables hold. -/

namespace Sys2Proof.Machine

/-- Two memories read the same at every address but those of the codec tables. -/
def SameOffTables (m n : Memory) : Prop := ∀ a, isTableAddr a = false → n.read a = m.read a

/-- The same bytes stored at the same place leave two memories alike. -/
theorem SameOffTables.store {m n : Memory} (h : SameOffTables m n) (base : Nat) (bytes : List Byte) :
    SameOffTables (m.store base bytes) (n.store base bytes) := by
  intro a ha
  by_cases hin : base ≤ a ∧ a < base + bytes.length
  · obtain ⟨k, rfl⟩ := Nat.exists_eq_add_of_le hin.1
    have hk : k < bytes.length := by omega
    rw [read_store_inside _ _ _ _ hk, read_store_inside _ _ _ _ hk]
  · rw [read_store_outside _ _ _ _ (by omega), read_store_outside _ _ _ _ (by omega), h a ha]

/-- A buffer that is no codec table reads the same. -/
theorem SameOffTables.readBuf {m n : Memory} (h : SameOffTables m n) {r : Region} {len : Nat}
    (hr : r ∉ [Region.alphaTo, .indexOf, .genPoly]) (hlen : len ≤ regionSize r) :
    n.readBuf r 0 len = m.readBuf r 0 len := by
  refine readBlock_congr fun k hk => h _ ?_
  have hin : inRegion r (regionBase r + 0 + k) = true := inRegion_iff.mpr (by omega)
  rw [Bool.eq_false_iff]
  intro htable
  rw [inRegion_of_isTableAddr htable hr] at hin
  contradiction

/-- What the QR path takes from the state: CONFIG and the memories but the codec tables. -/
structure SameQrInputs (s u : State) : Prop where
  config : u.regs.config = s.regs.config
  mem : SameOffTables s.mem u.mem

section QrPath

variable {s u : State} {g : Geometry} {v : Nat} (hg : geometry v = some g) (h : SameQrInputs s u)
include hg h

/-- BLOCK_ENCODE reads DATA_BUF and stores CW_BUF, off the tables. -/
theorem blockEncodeBody_same : SameQrInputs (blockEncodeBody g s) (blockEncodeBody g u) := by
  refine ⟨h.config, ?_⟩
  have hk := blockSpec_congr h.config g
  obtain ⟨htotal, -⟩ := rowFacts hg
  obtain ⟨-, -, -, -, -, hsum⟩ := blockFacts hg s.regs.level
  have hlen : (s.regs.blockSpec g).data ≤ 4096 := by
    rw [Regs.blockSpec]
    omega
  rw [blockEncodeBody_mem, blockEncodeBody_mem, hk, h.mem.readBuf (by decide) hlen]
  exact h.mem.store _ _

omit hg in
theorem frameInitBody_same : SameQrInputs (frameInitBody g s) (frameInitBody g u) :=
  ⟨h.config, h.mem.store _ _⟩

/-- The grid of a legal version reads the same. -/
theorem gridCells_same : u.mem.gridCells g = s.mem.gridCells g :=
  h.mem.readBuf (by decide) ((modules_le hg).trans (by decide))

/-- FRAME_PLACE reads CW_BUF and GRID and stores GRID, off the tables. -/
theorem framePlaceBody_same : SameQrInputs (framePlaceBody g s) (framePlaceBody g u) := by
  refine ⟨h.config, ?_⟩
  rw [framePlaceBody_mem, framePlaceBody_mem, gridCells_same hg h, h.mem.readBuf (by decide) (rowFacts hg).1.le]
  exact h.mem.store _ _

/-- MASK_EVAL gives the same registers and the same OUT. -/
theorem maskEvalBody_same : SameQrInputs (maskEvalBody g s) (maskEvalBody g u) ∧
    (maskEvalBody g u).regs.format = (maskEvalBody g s).regs.format ∧
    (maskEvalBody g u).regs.sel = (maskEvalBody g s).regs.sel ∧
    (maskEvalBody g u).regs.score = (maskEvalBody g s).regs.score := by
  have hlevel := level_congr h.config
  simp only [maskEvalBody, gridCells_same hg h, hlevel, h.config, writeResult_regs, and_self, and_true]
  refine ⟨h.config, ?_⟩
  rw [writeResult_mem, writeResult_mem, hlevel]
  exact h.mem.store _ _

end QrPath

/-- BLOCK_ENCODE and ENCODE complete without error only with a legal version (R136). -/
theorem geometry_of_no_error {s : State} {i : Instr} (hi : i = .blockEncode ∨ i = .encodeSymbol)
    (h : reportedError i s = none) : ∃ g, s.regs.geometry = some g := by
  cases hg : s.regs.geometry with
  | some g => exact ⟨g, rfl⟩
  | none => rcases hi with rfl | rfl <;> simp [reportedError, hg] at h

/-- The checks of BLOCK_ENCODE and ENCODE read CONFIG and DATA_LEN alone (R95, R129). -/
theorem reportedError_same {s u : State} {i : Instr} (hi : i = .blockEncode ∨ i = .encodeSymbol)
    (hconfig : u.regs.config = s.regs.config) (hlen : u.regs.dataLen = s.regs.dataLen) :
    reportedError i u = reportedError i s := by
  have hgeo := geometry_congr hconfig
  cases hg : s.regs.geometry <;> rcases hi with rfl | rfl <;>
    simp [reportedError, hgeo, hg, blockSpec_congr hconfig, hconfig, hlen]

/-- The body of BLOCK_ENCODE or ENCODE gives the same results whatever the codec holds. -/
theorem commandBody_same {s u : State} {i : Instr} (hi : i = .blockEncode ∨ i = .encodeSymbol) (h : SameQrInputs s u)
    {g : Geometry} (hg : s.regs.geometry = some g) :
    SameOffTables (commandBody i s).mem (commandBody i u).mem ∧
    (commandBody i u).regs.cwLen = (commandBody i s).regs.cwLen ∧
    (i = .encodeSymbol → (commandBody i u).regs.format = (commandBody i s).regs.format ∧
      (commandBody i u).regs.sel = (commandBody i s).regs.sel ∧
      (commandBody i u).regs.score = (commandBody i s).regs.score) := by
  have hgu : u.regs.geometry = some g := (geometry_congr h.config).trans hg
  have hblock := blockEncodeBody_same hg h
  rcases hi with rfl | rfl
  · simp only [commandBody, hg, hgu, Option.elim_some]
    exact ⟨hblock.mem, rfl, by simp⟩
  · simp only [commandBody, hg, hgu, Option.elim_some]
    obtain ⟨hsame, hformat, hsel, hscore⟩ :=
      maskEvalBody_same hg (framePlaceBody_same hg (frameInitBody_same hblock))
    exact ⟨hsame.mem, rfl, fun _ => ⟨hformat, hsel, hscore⟩⟩

/-- Settles O25: the checks read CONFIG and DATA_LEN, the bodies read CONFIG and the memories but the tables, and the
stores go to CW_BUF, GRID and OUT. -/
theorem blockEncodeIgnoresTheProgrammableCodec : Obligations.BlockEncodeIgnoresTheProgrammableCodec := by
  intro s u i hi hconfig hlen hmem
  have herror := reportedError_same hi hconfig hlen
  have hne : i ≠ .rsInit ∧ i ≠ .softReset := by
    rcases hi with rfl | rfl <;> simp
  obtain ⟨hcodec, htables⟩ := resultOf_codec hne.1 hne.2 u
  refine ⟨_, _, exec_eq i s, exec_eq i u, ?_⟩
  have herr : (resultOf i u).regs.status.err = (resultOf i s).regs.status.err ∧
      (resultOf i u).regs.status.errcode = (resultOf i s).regs.status.errcode := by
    rw [resultOf_status, resultOf_status, herror]
    cases reportedError i s <;> exact ⟨rfl, rfl⟩
  cases he : reportedError i s with
  | none =>
    obtain ⟨g, hg⟩ := geometry_of_no_error hi he
    obtain ⟨hm, hcw, hrest⟩ := commandBody_same hi (s := issue i 0 s) (u := issue i 0 u) ⟨hconfig, hmem⟩ hg
    have hs : resultOf i s = complete (commandBody i (issue i 0 s)) := by rw [resultOf_eq, he]; rfl
    have hu : resultOf i u = complete (commandBody i (issue i 0 u)) := by rw [resultOf_eq, herror, he]; rfl
    refine ⟨?_, herr.1, herr.2, fun _ => ?_, fun _ => ?_, hcodec, htables⟩ <;> rw [hs, hu]
    · exact hm
    · exact hcw
    · exact hrest
  | some e =>
    have hs : resultOf i s = raise e (issue i 0 s) := by rw [resultOf_eq, he, finish, failingBody, if_neg hne.1]
    have hu : resultOf i u = raise e (issue i 0 u) := by rw [resultOf_eq, herror, he, finish, failingBody, if_neg hne.1]
    have hfails : (resultOf i s).regs.status.err ≠ false := by rw [hs]; simp
    exact ⟨by rw [hs, hu]; exact hmem, herr.1, herr.2, fun h => absurd h hfails, fun h => absurd h hfails, hcodec,
      htables⟩

end Sys2Proof.Machine
end

section
/-! PROOF. Register writes and reads of an IDLE core, the step that takes a command, and the reset state. -/

namespace Sys2Proof.Machine

/-! ### Register accesses while IDLE -/

section RegisterAccess

variable {s : State} {addr : Addr} {r : Reg} {rest : List Input} (he : s.engine = .idle)
  (ht : target addr .b4 = some (.register r))
include he ht

/-- A write of a register but CMD stores its fields and answers ok (R16). -/
theorem step_writeReg {v : Word} (hr : s.rstN = true) (hin : s.inputs = .txn (.write addr .b4 v) :: rest)
    (hne : r ≠ .cmd) : step s = .next (respond .ok (writeReg v { s with inputs := rest } r)) := by
  have hc : issuedWord s = none := issuedWord_write hin fun h => hne (by rw [ht] at h; injection h with h; injection h)
  rw [step_idle he hc, whileIdle_cons hin]
  simp [inputIdle, txnIdle, hr, writeIdle, ht]

/-- A read of a register answers what it reads as (R61). -/
theorem step_readReg (hin : s.inputs = .txn (.read addr .b4) :: rest) :
    step s = .next (respond (.data (readReg s r)) { s with inputs := rest }) := by
  rw [step_idle he (issuedWord_read hin), whileIdle_cons hin]
  simp only [inputIdle, txnIdle, readIdle, ht]
  cases r <;> rfl

end RegisterAccess

/-- Settles O47: STATUS is written where its ones are. -/
theorem statusOnesClearDoneAndOverrun : Obligations.StatusOnesClearDoneAndOverrun := by
  intro s v rest he hr hin
  rw [step_writeReg he (r := .status) (by decide) hr hin (by decide)]
  rfl

/-- The read/write registers stand at their offsets, and CMD is none of them. -/
theorem target_readWriteRegisters :
    ∀ x ∈ readWriteRegisters, target x.1 .b4 = some (.register x.2.1) ∧ x.2.1 ≠ .cmd := by decide

/-- A read/write register reads back the written fields, its reserved bits 0 (R16), bit by bit. -/
theorem readReg_writeReg_same (v : Word) (s : State) :
    ∀ x ∈ readWriteRegisters, readReg (writeReg v s x.2.1) x.2.1 = v &&& x.2.2 := by
  simp only [readWriteRegisters, List.forall_mem_cons, writeReg, readReg, configOfWord]
  refine ⟨?_, ?_, ?_, ?_, ?_, ?_, ?_, by simp⟩ <;>
  · refine BitVec.eq_of_getLsbD_eq fun i hi => ?_
    simp only [BitVec.getLsbD_append, BitVec.getLsbD_extractLsb', BitVec.getLsbD_and, -Nat.reduceAdd]
    interval_cases i <;> simp

/-- A write of one read/write register leaves the other ones alone (R16). -/
theorem readReg_writeReg_other (v : Word) (s : State) : ∀ x ∈ readWriteRegisters, ∀ y ∈ readWriteRegisters,
    y.2.1 ≠ x.2.1 → readReg (writeReg v s x.2.1) y.2.1 = readReg s y.2.1 := by
  simp [readWriteRegisters, writeReg, readReg]

/-- What a write of a read/write register leaves alone: the memory and what only the core writes (R16). -/
theorem writeReg_keeps_core (v : Word) (s : State) : ∀ x ∈ readWriteRegisters,
    (writeReg v s x.2.1).mem = s.mem ∧ (writeReg v s x.2.1).regs.status = s.regs.status ∧
    (writeReg v s x.2.1).regs.codec = s.regs.codec ∧ (writeReg v s x.2.1).regs.score = s.regs.score ∧
    (writeReg v s x.2.1).regs.cwLen = s.regs.cwLen ∧ (writeReg v s x.2.1).regs.format = s.regs.format ∧
    (writeReg v s x.2.1).regs.sel = s.regs.sel := by
  simp [readWriteRegisters, writeReg]

/-- A register write touches neither the engine nor the ports. -/
theorem writeReg_ports (v : Word) (s : State) (r : Reg) : (writeReg v s r).engine = s.engine ∧
    (writeReg v s r).inputs = s.inputs ∧ (writeReg v s r).responses = s.responses := by
  cases r <;> exact ⟨rfl, rfl, rfl⟩

/-- Reading a register looks at the registers and the engine only. -/
theorem readReg_congr {s t : State} (hregs : t.regs = s.regs) (he : t.engine = s.engine) (r : Reg) :
    readReg t r = readReg s r := by
  cases r <;> simp [readReg, hregs, he]

/-- Settles O46: the write stores the fields, the read answers them, and neither touches anything else. -/
theorem writableRegistersReadBackTheirFields : Obligations.WritableRegistersReadBackTheirFields := by
  intro s v rest offset r fields hx he hr hin
  obtain ⟨ht, hne⟩ := target_readWriteRegisters _ hx
  have hwrite := step_writeReg he ht hr hin hne
  obtain ⟨hengine, hinputs, hresponses⟩ := writeReg_ports v { s with inputs := .txn (.read offset .b4) :: rest } r
  have hsame := readReg_writeReg_same v { s with inputs := .txn (.read offset .b4) :: rest } _ hx
  have hother := readReg_writeReg_other v { s with inputs := .txn (.read offset .b4) :: rest } _ hx
  obtain ⟨hmem, hkept⟩ := writeReg_keeps_core v { s with inputs := .txn (.read offset .b4) :: rest } _ hx
  generalize writeReg v { s with inputs := .txn (.read offset .b4) :: rest } r = w at *
  have hread := step_readReg (s := respond .ok w) (hengine.trans he) ht hinputs
  have hview : ∀ q, readReg (respond .ok w) q = readReg w q := readReg_congr rfl rfl
  rw [hview, hsame] at hread
  have hfinal : ∀ q, readReg (respond (.data (v &&& fields)) { respond .ok w with inputs := rest }) q = readReg w q :=
    readReg_congr rfl rfl
  refine ⟨_, _, hwrite, hread, ?_, (hfinal r).trans hsame, hmem, fun y hy hyr => ?_, hkept⟩
  · rw [respond_responses, respond_responses, hresponses]
  · rw [hfinal, hother y hy hyr]
    exact readReg_congr rfl rfl _

/-! ### The step that takes a command -/

/-- A write of CMD with `rst_n` high issues a command (R18). -/
theorem issuedWord_cmd {s : State} {c : Word} {rest : List Input} (hr : s.rstN = true)
    (hin : s.inputs = .txn (.write 0x004#17 .b4 c) :: rest) : issuedWord s = some c := by
  have ht : target 0x004#17 .b4 = some (.register .cmd) := by decide
  simp [issuedWord, hin, hr, ht]

/-- Settles O6: the step of an IDLE core runs or issues the command of the word, and a BUSY one with no step left runs
its own. -/
theorem stepRunsTheDecodedCommand : Obligations.StepRunsTheDecodedCommand := by
  refine ⟨fun s c rest he hr hin => ?_, fun s ls n h => by simp [nextLatency, h], fun s h => by simp [nextLatency, h],
    fun s i => step_completes⟩
  have hc := issuedWord_cmd hr hin
  have ha : acceptCommand s = { s with
      inputs := rest, responses := .ok :: s.responses, latencies := s.latencies.tail, draws := s.draws + 1 } := by
    simp [acceptCommand, hin]
  rw [← ha]
  exact ⟨fun hl => by simp [step, he, hc, hl], fun n hl => by simp [step, he, hc, hl]⟩

/-! ### Reset -/

/-- Settles O1: the reset registers, one by one. -/
theorem resetRegistersReadTheirResetValues : Obligations.ResetRegistersReadTheirResetValues := by
  refine ⟨by decide, by decide, by decide, rfl, rfl⟩

/-- Settles O2: nothing is captured, evaluated, listed or running at reset. -/
theorem resetStateIsSafe : Obligations.ResetStateIsSafe := by
  refine ⟨reset_mem_wf, ⟨by decide, by decide, fun i left h => ?_⟩, fun h => ?_, fun a ha => ?_,
    reset_scoreboardCoherent rfl, fun c hc => ?_⟩
  · cases h
  · cases h
  · exact unlisted_table ha
  · cases hc

/-- A power-on is taken whether the engine is IDLE or BUSY, the completing step of a command apart (R150). -/
theorem step_powerOn {s : State} {rest : List Input} (hin : s.inputs = .powerOn :: rest)
    (he : ∀ i, s.engine ≠ .busy i 0) : step s = .next (powerOn { s with inputs := rest }) := by
  rcases hs : s.engine with _ | ⟨i, _ | left⟩
  · have hc : issuedWord s = none := by simp [issuedWord, hin]
    rw [step_idle hs hc, whileIdle_cons hin]
    rfl
  · exact absurd hs (he i)
  · rw [step_busy hs, whileBusy_cons hin]
    rfl

/-- Settles O53: power-on is taken IDLE or BUSY, and forgets every byte. -/
theorem powerOnGivesTheResetState : Obligations.PowerOnGivesTheResetState := by
  intro s rest hin he
  exact ⟨_, step_powerOn hin he, rfl, rfl, rfl, fun a => rfl, rfl, rfl, rfl, rfl, rfl⟩

end Sys2Proof.Machine
end

section
/-! PROOF. The step that takes a host transaction, IDLE or BUSY, by the target of its access (20_memory.md R54 to R56):
an access without a meaning, and an access of a memory. -/

namespace Sys2Proof.Machine

/-! ### The accesses of the address map -/

/-- Every byte of an aligned memory access lies in the region of its first byte (R56). -/
theorem regionOf_aligned {a : Nat} {size : Size} {r : Region} (hr : regionOf a = some r) (ha : a % size.bytes = 0)
    {k : Nat} (hk : k < size.bytes) : regionOf (a + k) = some r := by
  have hin := regionOf_eq_some hr
  have hend := aligned_in_region hr ha
  have := regionOf_inRegion r (a + k - regionBase r) (by omega)
  rwa [Nat.add_sub_cancel' (by omega)] at this

/-- What makes an access a BusError: an unmapped byte, a register access that is not an aligned word, or a misaligned
access of a memory (R54 to R56). -/
theorem target_eq_none {addr : Addr} {size : Size}
    (h : (∃ k < size.bytes, Unmapped (addr.toNat + k)) ∨ (addr.toNat < 0x200 ∧ (size ≠ .b4 ∨ addr.toNat % 4 ≠ 0)) ∨
      ((regionOf addr.toNat).isSome = true ∧ addr.toNat % size.bytes ≠ 0)) : target addr size = none := by
  rw [← Option.not_isSome_iff_eq_none, target_isSome]
  rintro (⟨hlt, rfl, hmod⟩ | ⟨hreg, hmod⟩)
  · rcases h with ⟨k, hk, hu⟩ | ⟨-, h | h⟩ | ⟨h, -⟩
    · simp only [Size.bytes] at hk
      unfold Unmapped at hu
      omega
    · exact h rfl
    · exact h hmod
    · rw [regionOf_register hlt] at h
      contradiction
  · obtain ⟨r, hr⟩ := Option.isSome_iff_exists.mp hreg
    rcases h with ⟨k, hk, hu⟩ | ⟨h, -⟩ | ⟨-, h⟩
    · have := regionOf_aligned hr hmod hk
      rw [regionOf_unmapped hu] at this
      contradiction
    · rw [regionOf_register h] at hr
      contradiction
    · exact h hmod

/-- A legal access is one of a register or one of a memory (R55, R56). -/
theorem target_of_legal {addr : Addr} {size : Size} (h : LegalAccess addr.toNat size) :
    (addr.toNat < 0x200 ∧ target addr size = some (.register (regAt addr.toNat))) ∨
    (0x200 ≤ addr.toNat ∧ ∃ r, regionOf addr.toNat = some r ∧ target addr size = some (.memory r)) := by
  obtain ⟨tgt, ht⟩ := Option.isSome_iff_exists.mp ((target_isSome addr size).mpr h)
  cases tgt with
  | register r =>
    obtain ⟨hlt, -, -, rfl⟩ := target_register ht
    exact .inl ⟨hlt, ht⟩
  | memory r =>
    have hr := (target_memory ht).1
    refine .inr ⟨not_lt.mp fun hlt => ?_, r, hr, ht⟩
    rw [regionOf_register hlt] at hr
    contradiction

/-- An aligned access of a memory has that memory as its target (R56). -/
theorem target_of_aligned {addr : Addr} {size : Size} {r : Region} (hr : regionOf addr.toNat = some r)
    (ha : addr.toNat % size.bytes = 0) : target addr size = some (.memory r) := by
  rw [target_of_region hr, if_pos ha]

/-! ### The step that takes a transaction -/

section Transaction

variable {s : State} {addr : Addr} {size : Size} {data : Word} {x : Txn} {rest : List Input}

/-- A transaction whose target is not CMD is taken by an IDLE core, and issues nothing (R18). -/
theorem step_txnIdle (he : s.engine = .idle) (hx : x = .read addr size ∨ x = .write addr size data)
    (ht : target addr size ≠ some (.register .cmd)) (hin : s.inputs = .txn x :: rest) :
    step s = .next (txnIdle x { s with inputs := rest }) := by
  have hc : issuedWord s = none := by
    rcases hx with rfl | rfl
    · exact issuedWord_read hin
    · exact issuedWord_write hin ht
  rw [step_idle he hc, whileIdle_cons hin]
  rfl

/-- A transaction is taken by a BUSY core that does not complete (R62, R139). -/
theorem step_txnBusy {i : Instr} {left : Nat} (he : s.engine = .busy i (left + 1)) (hin : s.inputs = .txn x :: rest) :
    step s = .next (txnBusy i x { s with inputs := rest, engine := .busy i left }) := by
  rw [step_busy he, whileBusy_cons hin]
  rfl

/-- An access without a meaning is a BusError while IDLE, in reset too (R54 to R56; log entry 8). -/
theorem txnIdle_busError (hx : x = .read addr size ∨ x = .write addr size data) (ht : target addr size = none)
    (u : State) : txnIdle x u = respond .busError u := by
  rcases hx with rfl | rfl
  · simp [txnIdle, readIdle, ht]
  · cases hr : u.rstN <;> simp [txnIdle, hr, writeIdle, writeInReset, ht]

/-- An access without a meaning is a BusError while BUSY and sets nothing (R139). -/
theorem txnBusy_busError (hx : x = .read addr size ∨ x = .write addr size data) (ht : target addr size = none)
    (i : Instr) (u : State) : txnBusy i x u = respond .busError u := by
  rcases hx with rfl | rfl <;> simp [txnBusy, readBusy, writeBusy, ht]

/-- An access of a memory is answered while IDLE: a read with the bytes, a write with ok (R57, R59, R150). -/
theorem txnIdle_memory {r : Region} (hx : x = .read addr size ∨ x = .write addr size data)
    (ht : target addr size = some (.memory r)) (u : State) :
    ∃ a, a ≠ .busError ∧ (txnIdle x u).responses = a :: u.responses := by
  rcases hx with rfl | rfl
  · exact ⟨.data (readMem u.mem addr size), by simp, by simp [txnIdle, readIdle, ht]⟩
  · refine ⟨.ok, by simp, ?_⟩
    cases hr : u.rstN
    · simp [txnIdle, hr, writeInReset, ht]
    · by_cases hw : regionWritable r = true <;> simp [txnIdle, hr, writeIdle, writeMem, ht, hw]

end Transaction

/-- Settles O41: an access without a meaning has no target, and is answered BusError whoever takes it. -/
theorem accessWithoutMeaningIsBusError : Obligations.AccessWithoutMeaningIsBusError := by
  intro s addr size data x rest h hx hin
  have ht := target_eq_none h
  refine ⟨fun he => ?_, fun i left he => ?_⟩
  · rw [step_txnIdle he hx (by simp [ht]) hin, txnIdle_busError hx ht]
    rfl
  · rw [step_txnBusy he hin, txnBusy_busError hx ht]
    rfl

/-- Settles O42: alignment alone decides whether an access of a memory has a target. -/
theorem memoryAccessMustBeAligned : Obligations.MemoryAccessMustBeAligned := by
  intro s addr size data x rest r hr hx hin he
  refine ⟨fun ha => ⟨fun k hk => regionOf_aligned hr ha hk, ?_⟩, fun ha => ?_⟩
  · have ht := target_of_aligned hr ha
    obtain ⟨a, hne, hresp⟩ := txnIdle_memory hx ht { s with inputs := rest }
    exact ⟨_, a, step_txnIdle he hx (by simp [ht]) hin, hresp, hne⟩
  · have ht : target addr size = none := target_eq_none (.inr (.inr ⟨by simp [hr], ha⟩))
    rw [step_txnIdle he hx (by simp [ht]) hin, txnIdle_busError hx ht]
    rfl

end Sys2Proof.Machine
end

section
/-! PROOF. The bytes of a transaction (20_memory.md R57): a word composed of bytes and split into them, and what a read
and a write of an IDLE core answer and change (R59, R61). -/

namespace Sys2Proof.Machine

/-! ### Little-endian words -/

/-- A transaction has at most four bytes (R51). -/
theorem Size.bytes_le_four (size : Size) : size.bytes ≤ 4 := by cases size <;> decide

/-- Bit j of a composed word is a bit of byte j / 8 (R57). -/
theorem getLsbD_composeLE (bs : List Byte) {j : Nat} (hj : j < 32) :
    (composeLE bs).getLsbD j = (bs.getD (j / 8) 0#8).getLsbD (j % 8) := by
  induction bs generalizing j with
  | nil => simp [composeLE]
  | cons b bs ih =>
    simp only [composeLE, BitVec.getLsbD_or, BitVec.getLsbD_setWidth, BitVec.getLsbD_shiftLeft, hj, decide_true,
      Bool.true_and]
    by_cases h8 : j < 8
    · simp [h8, Nat.div_eq_of_lt, Nat.mod_eq_of_lt]
    · obtain ⟨q, rfl⟩ := Nat.exists_eq_add_of_le (not_lt.mp h8)
      have hdiv : (8 + q) / 8 = q / 8 + 1 := by omega
      simp [ih (j := q) (by omega), hdiv]

/-- The bytes of a composed word, in their order (R57). -/
theorem extractLsb'_composeLE (bs : List Byte) {k : Nat} (hk : k < 4) :
    (composeLE bs).extractLsb' (8 * k) 8 = bs.getD k 0#8 := by
  refine BitVec.eq_of_getLsbD_eq fun i hi => ?_
  have hdiv : (8 * k + i) / 8 = k := by omega
  have hmod : (8 * k + i) % 8 = i := by omega
  rw [BitVec.getLsbD_extractLsb', getLsbD_composeLE bs (by omega), hdiv, hmod]
  simp [hi]

/-- The value of a list of bytes fits in as many bytes. -/
theorem ofDigits_bytes_lt (bs : List Byte) : Nat.ofDigits 256 (bs.map BitVec.toNat) < 256 ^ bs.length := by
  have hdigits : ∀ x ∈ bs.map BitVec.toNat, x < 256 := by
    intro x hx
    obtain ⟨b, -, rfl⟩ := List.mem_map.mp hx
    exact b.isLt
  simpa using Nat.ofDigits_lt_base_pow_length (by decide) hdigits

/-- The number that up to four bytes stand for (R57). -/
theorem toNat_composeLE {bs : List Byte} (h : bs.length ≤ 4) :
    (composeLE bs).toNat = Nat.ofDigits 256 (bs.map BitVec.toNat) := by
  induction bs with
  | nil => rfl
  | cons b bs ih =>
    rw [List.length_cons] at h
    have hvalue := ih (by omega)
    have hlt : (composeLE bs).toNat < 2 ^ 24 := by
      calc (composeLE bs).toNat = Nat.ofDigits 256 (bs.map BitVec.toNat) := hvalue
        _ < 256 ^ bs.length := ofDigits_bytes_lt bs
        _ ≤ 256 ^ 3 := Nat.pow_le_pow_right (by decide) (by omega)
    have hshift : (composeLE bs).toNat <<< 8 % 2 ^ 32 = (composeLE bs).toNat <<< 8 := by
      rw [Nat.shiftLeft_eq, Nat.mod_eq_of_lt (by omega)]
    have hb : b.toNat % 2 ^ 32 = b.toNat := Nat.mod_eq_of_lt (by omega)
    rw [composeLE, BitVec.toNat_or, BitVec.toNat_setWidth, BitVec.toNat_shiftLeft, hshift, hb, Nat.lor_comm,
      ← Nat.shiftLeft_add_eq_or_of_lt b.isLt, Nat.shiftLeft_eq, hvalue, List.map_cons,
      Nat.ofDigits_cons]
    omega

/-- A word composed of a transaction's bytes fits in them (R57; log entry 24). -/
theorem toNat_composeLE_lt {bs : List Byte} {size : Size} (h : bs.length = size.bytes) :
    (composeLE bs).toNat < 2 ^ (8 * size.bytes) := by
  have h4 := Size.bytes_le_four size
  rw [toNat_composeLE (by omega), Nat.pow_mul, ← h]
  exact ofDigits_bytes_lt bs

@[simp] theorem length_splitLE (n : Nat) (v : Word) : (splitLE n v).length = n := by simp [splitLE]

/-- The bytes of a value, in their order (R57). -/
@[simp] theorem getElem_splitLE (n : Nat) (v : Word) (k : Nat) (h : k < (splitLE n v).length) :
    (splitLE n v)[k] = v.extractLsb' (8 * k) 8 := by
  simp [splitLE]

/-- Splitting a value into its bytes and composing them gives its low bits (R57). -/
theorem composeLE_splitLE (size : Size) (v : Word) :
    composeLE (splitLE size.bytes v) = v &&& BitVec.ofNat 32 (2 ^ (8 * size.bytes) - 1) := by
  refine BitVec.eq_of_getLsbD_eq fun j hj => ?_
  rw [getLsbD_composeLE _ hj, BitVec.getLsbD_and, BitVec.getLsbD_ofNat, Nat.testBit_two_pow_sub_one]
  by_cases hk : j / 8 < size.bytes
  · have hj8 : 8 * (j / 8) + j % 8 = j := Nat.div_add_mod j 8
    have hlow : j < 8 * size.bytes := by omega
    rw [List.getD_eq_getElem _ _ (by simpa using hk), getElem_splitLE, BitVec.getLsbD_extractLsb', hj8]
    simp [hj, hlow, Nat.mod_lt]
  · have hhigh : ¬ j < 8 * size.bytes := by omega
    rw [List.getD_eq_default _ _ (by simpa using hk)]
    simp [hhigh]

/-- The number a memory read answers (R57). -/
theorem toNat_readMem (m : Memory) (addr : Addr) (size : Size) : (readMem m addr size).toNat =
    ((List.range size.bytes).map fun i => (m.read (addr.toNat + i)).toNat * 256 ^ i).sum := by
  rw [readMem, toNat_composeLE (by simpa using Size.bytes_le_four size), Nat.ofDigits_eq_sum_mapIdx]
  congr 1
  refine List.ext_getElem (by simp) fun i _ _ => ?_
  simp

/-- What was stored is read back (R57). -/
theorem readMem_store (m : Memory) (addr : Addr) (size : Size) (v : Word) :
    readMem (m.store addr.toNat (splitLE size.bytes v)) addr size =
      v &&& BitVec.ofNat 32 (2 ^ (8 * size.bytes) - 1) := by
  have hblock : (m.store addr.toNat (splitLE size.bytes v)).readBlock addr.toNat size.bytes =
      splitLE size.bytes v := by
    refine List.ext_getElem (by simp) fun k _ hk => ?_
    rw [getElem_readBlock, read_store_inside _ _ _ k hk]
  rw [readMem, hblock, composeLE_splitLE]

/-! ### Accesses of an IDLE core -/

section IdleAccess

variable {s : State} {addr : Addr} {size : Size} {rest : List Input}

/-- A read of a memory answers its stored bytes (R57, R61). -/
theorem step_readMem {r : Region} (he : s.engine = .idle) (ht : target addr size = some (.memory r))
    (hin : s.inputs = .txn (.read addr size) :: rest) :
    step s = .next (respond (.data (readMem s.mem addr size)) { s with inputs := rest }) := by
  rw [step_txnIdle (data := 0) he (.inl rfl) (by simp [ht]) hin]
  simp [txnIdle, readIdle, ht]

/-- A read while IDLE answers its target, or BusError (R54 to R56, R61). -/
theorem step_readIdle (he : s.engine = .idle) (hin : s.inputs = .txn (.read addr size) :: rest) :
    ∃ a, step s = .next (respond a { s with inputs := rest }) := by
  rw [step_idle he (issuedWord_read hin), whileIdle_cons hin]
  simp only [inputIdle, txnIdle, readIdle]
  cases target addr size with
  | none => exact ⟨_, rfl⟩
  | some tgt => cases tgt <;> exact ⟨_, rfl⟩

/-- A write of a memory that the host may write stores its bytes (R57). -/
theorem step_writeMem {r : Region} {data : Word} (he : s.engine = .idle) (hr : s.rstN = true)
    (ht : target addr size = some (.memory r)) (hw : regionWritable r = true)
    (hin : s.inputs = .txn (.write addr size data) :: rest) :
    step s = .next (respond .ok { s with
      inputs := rest, mem := s.mem.store addr.toNat (splitLE size.bytes data) }) := by
  rw [step_txnIdle he (.inr rfl) (by simp [ht]) hin]
  simp [txnIdle, hr, writeIdle, writeMem, ht, hw]

end IdleAccess

/-- Settles O43: the write stores the split value, and the read composes what it finds there. -/
theorem memoryWriteThenReadGivesTheValue : Obligations.MemoryWriteThenReadGivesTheValue := by
  intro s addr size data rest r hr hregion ha he hrst hin
  have hw : regionWritable r = true := by rcases hregion with rfl | rfl | rfl | rfl <;> rfl
  have ht := target_of_aligned hr ha
  refine ⟨_, _, step_writeMem he hrst ht hw hin, step_readMem he ht rfl, fun k hk => ?_, fun a hout => ?_, rfl, he,
    rfl, ?_⟩
  · exact (read_store_inside _ _ _ k (by simpa using hk)).trans (getElem_splitLE _ _ k _)
  · exact read_store_outside _ _ _ a (by simpa using hout)
  · rw [respond_mem, readMem_store]
    rfl

end Sys2Proof.Machine
end

section
/-! PROOF. The register map as the host sees it (10_state.md section 3): which registers a write leaves alone (R16, R59)
and what every offset reads as while IDLE (R16 to R39, R61). -/

namespace Sys2Proof.Machine

/-! ### The register map -/

/-- The registers a host write can change, CMD among them for the command it issues (R16, R18 to R20, R24, R28 to
R32). -/
def hostWrittenRegs : List Reg :=
  [.cmd, .status, .config, .dataLen, .irqEn, .rsPoly, .rsRoot, .rsLen, .rsSrc]

/-- A read-only or reserved register takes no bits (R16). -/
theorem writeReg_readOnly (v : Word) (s : State) {r : Reg} (h : r ∉ hostWrittenRegs) : writeReg v s r = s := by
  cases r
  case cmd | status | config | dataLen | irqEn | rsPoly | rsRoot | rsLen | rsSrc => simp [hostWrittenRegs] at h
  all_goals rfl

/-- No register is listed from 0x050 up to the scoreboard (10_state.md section 3). -/
theorem regAt_below_scoreboard {a : Nat} (hlo : 0x050 ≤ a) (hhi : a < 0x100) : regAt a = .reserved := by
  have hnone : registerOffsets.lookup a = none := by
    refine List.lookup_eq_none_iff.mpr fun p hp => ?_
    have hlt : ∀ p ∈ registerOffsets, p.1 < 0x050 := by decide
    have := hlt p hp
    exact bne_iff_ne.mpr (by omega)
  simp [regAt, hhi, hnone]

/-- The scoreboard and the offsets from 0x050 on are written by the core alone (R16, R38, R39). -/
theorem regAt_not_written {a : Nat} (hlo : 0x050 ≤ a) : regAt a ∉ hostWrittenRegs := by
  by_cases hlt : a < 0x100
  · rw [regAt_below_scoreboard hlo hlt]
    decide
  · have hpart : ∀ (m : BitVec 3) (n : Nat), scorePart m n ∉ hostWrittenRegs := by
      intro m n
      unfold scorePart
      split <;> simp [hostWrittenRegs]
    unfold regAt
    rw [if_neg hlt]
    split_ifs
    · exact hpart _ _
    all_goals simp [hostWrittenRegs]

/-- The registers that stand at an offset, the scoreboard apart, are the ones the map lists there. -/
theorem registerOffsets_regAt : ∀ p ∈ registerOffsets, p.1 < 0x200 ∧ p.1 % 4 = 0 ∧ regAt p.1 = p.2 := by decide

/-- The scoreboard registers of mask m (R38, R39): offset and register. -/
def scoreRegisterOffsets (m : BitVec 3) : List (Nat × Reg) :=
  [ (0x100 + 16 * m.toNat, .scoreN1 m), (0x104 + 16 * m.toNat, .scoreN2 m), (0x108 + 16 * m.toNat, .scoreN3 m)
  , (0x10C + 16 * m.toNat, .scoreN4 m), (0x180 + 4 * m.toNat, .scoreTotal m), (0x1A0 + 4 * m.toNat, .scoreDark m) ]

/-- The four parts of mask m (R38). -/
theorem regAt_scorePart {m : BitVec 3} {a part : Nat} (hp : part < 4) (ha : a = 0x100 + 16 * m.toNat + 4 * part) :
    regAt a = scorePart m part := by
  have hm := m.isLt
  have hmask : (a - 0x100) / 16 = m.toNat := by omega
  have hpart : (a - 0x100) % 16 / 4 = part := by omega
  rw [regAt, if_neg (by omega), if_pos (by omega), hmask, hpart, BitVec.ofNat_toNat, BitVec.setWidth_eq]

/-- The total of mask m (R39). -/
theorem regAt_scoreTotal (m : BitVec 3) : regAt (0x180 + 4 * m.toNat) = .scoreTotal m := by
  have hm := m.isLt
  have hmask : (0x180 + 4 * m.toNat - 0x180) / 4 = m.toNat := by omega
  rw [regAt, if_neg (by omega), if_neg (by omega), if_pos (by omega), hmask, BitVec.ofNat_toNat, BitVec.setWidth_eq]

/-- The dark count of mask m (R39). -/
theorem regAt_scoreDark (m : BitVec 3) : regAt (0x1A0 + 4 * m.toNat) = .scoreDark m := by
  have hm := m.isLt
  have hmask : (0x1A0 + 4 * m.toNat - 0x1A0) / 4 = m.toNat := by omega
  rw [regAt, if_neg (by omega), if_neg (by omega), if_neg (by omega), if_pos (by omega), hmask, BitVec.ofNat_toNat,
    BitVec.setWidth_eq]

/-- So are those of the scoreboard. -/
theorem scoreRegisterOffsets_regAt (m : BitVec 3) :
    ∀ p ∈ scoreRegisterOffsets m, p.1 < 0x200 ∧ p.1 % 4 = 0 ∧ regAt p.1 = p.2 := by
  have hm := m.isLt
  simp only [scoreRegisterOffsets, List.forall_mem_cons]
  refine ⟨⟨by omega, by omega, regAt_scorePart (part := 0) (by decide) (by omega)⟩,
    ⟨by omega, by omega, regAt_scorePart (part := 1) (by decide) (by omega)⟩,
    ⟨by omega, by omega, regAt_scorePart (part := 2) (by decide) (by omega)⟩,
    ⟨by omega, by omega, regAt_scorePart (part := 3) (by decide) (by omega)⟩,
    ⟨by omega, by omega, regAt_scoreTotal m⟩, ⟨by omega, by omega, regAt_scoreDark m⟩, by simp⟩

/-- The words of `idleRegisterWords` are what the registers read as while IDLE. -/
theorem idleRegisterWords_eq {s : State} (he : s.engine = .idle) :
    idleRegisterWords s = registerOffsets.map fun p => (p.1, readReg s p.2) := by
  have hact : readReg s .rsAct = s.regs.codec.elim 0#32 fun c =>
      0#8 ++ BitVec.ofNat 8 (255 - c.nroots.toNat - c.pad.toNat) ++ c.pad ++ c.nroots := by
    unfold readReg
    cases s.regs.codec <;> rfl
  have hstatus : readReg s .status = statusWord false s.regs.rsValid s.regs.status := by
    simp [readReg, he, Engine.isBusy]
  simp only [registerOffsets, List.map_cons, List.map_nil, hact, hstatus]
  rfl

/-- The words of `scoreRegisterWords` are what the scoreboard reads as. -/
theorem scoreRegisterWords_eq (s : State) (m : BitVec 3) :
    scoreRegisterWords s m = (scoreRegisterOffsets m).map fun p => (p.1, readReg s p.2) := rfl

/-- A word that a table of registers gives for an offset is what the register at that offset reads as. -/
theorem readReg_of_mem_offsets {s : State} {offsets : List (Nat × Reg)}
    (hoff : ∀ p ∈ offsets, p.1 < 0x200 ∧ p.1 % 4 = 0 ∧ regAt p.1 = p.2) {a : Nat} {v : Word}
    (h : (a, v) ∈ offsets.map fun p => (p.1, readReg s p.2)) : a < 0x200 ∧ a % 4 = 0 ∧ readReg s (regAt a) = v := by
  obtain ⟨p, hp, heq⟩ := List.mem_map.mp h
  obtain ⟨rfl, rfl⟩ := Prod.mk.inj heq
  obtain ⟨hlt, hmod, hat⟩ := hoff p hp
  exact ⟨hlt, hmod, by rw [hat]⟩

/-- The reserved offsets (R16). -/
theorem regAt_reserved {a : Nat} (h : a = 0x038 ∨ a = 0x03C ∨ (0x050 ≤ a ∧ a < 0x100) ∨ (0x1C0 ≤ a ∧ a < 0x200)) :
    regAt a = .reserved := by
  rcases h with rfl | rfl | ⟨hlo, hhi⟩ | ⟨hlo, hhi⟩
  · rfl
  · rfl
  · exact regAt_below_scoreboard hlo hhi
  · have h1 : ¬ a < 0x100 := by omega
    have h2 : ¬ a < 0x180 := by omega
    have h3 : ¬ a < 0x1A0 := by omega
    have h4 : ¬ a < 0x1C0 := by omega
    simp [regAt, h1, h2, h3, h4]

/-! ### What an IDLE core answers -/

section IdleAnswers

variable {s : State} {addr : Addr} {size : Size} {data : Word} {rest : List Input}

/-- A write that stores nothing, of a register or of a memory that only the core writes, answers ok in reset too (R59,
R150). -/
theorem step_writeReadOnly {tgt : Target} (he : s.engine = .idle) (ht : target addr size = some tgt)
    (hro : (∃ r, tgt = .register r ∧ r ∉ hostWrittenRegs) ∨ ∃ r, tgt = .memory r ∧ regionWritable r = false)
    (hin : s.inputs = .txn (.write addr size data) :: rest) :
    step s = .next (respond .ok { s with inputs := rest }) := by
  have hne : target addr size ≠ some (.register .cmd) := by
    intro hcmd
    rw [ht] at hcmd
    rcases hro with ⟨r, rfl, hr⟩ | ⟨r, rfl, -⟩ <;> cases hcmd
    exact hr (by simp [hostWrittenRegs])
  rw [step_txnIdle he (.inr rfl) hne hin]
  rcases hro with ⟨r, rfl, hr⟩ | ⟨r, rfl, hr⟩
  · simp [txnIdle, writeInReset, writeIdle, ht, writeReg_readOnly _ _ hr]
  · simp [txnIdle, writeInReset, writeIdle, ht, writeMem, hr]

/-- An aligned read of a register range offset answers the register there (R61). -/
theorem step_readRegAt (he : s.engine = .idle) (hlt : addr.toNat < 0x200) (hmod : addr.toNat % 4 = 0)
    (hin : s.inputs = .txn (.read addr .b4) :: rest) :
    step s = .next (respond (.data (readReg s (regAt addr.toNat))) { s with inputs := rest }) :=
  step_readReg he (by simp [target, hlt, hmod]) hin

end IdleAnswers

/-- Settles O44: the target is a register or a memory that a host write does not reach. -/
theorem readOnlyWriteChangesNothing : Obligations.ReadOnlyWriteChangesNothing := by
  intro s addr size data rest he hin hlegal hro
  rcases target_of_legal hlegal with ⟨hlt, ht⟩ | ⟨hge, r, hr, ht⟩
  · have hreg : regAt addr.toNat ∉ hostWrittenRegs := by
      have hlisted : ∀ a ∈ [0x000, 0x014, 0x018, 0x01C, 0x034, 0x038, 0x03C, 0x040, 0x044, 0x048, 0x04C],
          regAt a ∉ hostWrittenRegs := by decide
      simp only [regionOf_register hlt, reduceCtorEq, false_or] at hro
      rcases hro with h | ⟨hlo, -⟩
      · exact hlisted _ h
      · exact regAt_not_written hlo
    exact step_writeReadOnly he ht (.inl ⟨_, rfl, hreg⟩) hin
  · have hw : regionWritable r = false := by
      simp only [hr, Option.some.injEq, List.mem_cons, List.not_mem_nil, or_false] at hro
      rcases hro with rfl | rfl | rfl | rfl | h | ⟨-, h⟩
      · rfl
      · rfl
      · rfl
      · rfl
      · omega
      · omega
    exact step_writeReadOnly he ht (.inr ⟨r, rfl, hw⟩) hin

/-- Settles O45: every offset of section 3 reads as its register, and an aligned memory read as its bytes. -/
theorem idleReadHasNoSideEffect : Obligations.IdleReadHasNoSideEffect := by
  intro s addr size rest he hin
  obtain ⟨a, hstep⟩ := step_readIdle he hin
  have hanswer : ∀ v, step s = .next (respond (.data v) { s with inputs := rest }) → a = .data v := by
    intro v hv
    rw [hstep] at hv
    simpa [respond] using hv
  have hreg : size = .b4 → addr.toNat < 0x200 → addr.toNat % 4 = 0 → a = .data (readReg s (regAt addr.toNat)) := by
    rintro rfl hlt hmod
    exact hanswer _ (step_readRegAt he hlt hmod hin)
  refine ⟨a, hstep, fun hs v hv => ?_, fun hs m v hv => ?_, fun hs hmod hres => ?_, fun hr hmod => ?_⟩
  · rw [idleRegisterWords_eq he] at hv
    obtain ⟨hlt, hmod, rfl⟩ := readReg_of_mem_offsets registerOffsets_regAt hv
    exact hreg hs hlt hmod
  · rw [scoreRegisterWords_eq] at hv
    obtain ⟨hlt, hmod, rfl⟩ := readReg_of_mem_offsets (scoreRegisterOffsets_regAt m) hv
    exact hreg hs hlt hmod
  · have hlt : addr.toNat < 0x200 := by omega
    rw [hreg hs hlt hmod, regAt_reserved hres]
    rfl
  · obtain ⟨r, hr⟩ := Option.isSome_iff_exists.mp hr
    exact ⟨_, hanswer _ (step_readMem he (target_of_aligned hr hmod) hin), toNat_readMem _ _ _⟩

end Sys2Proof.Machine
end

section
/-! PROOF. The core while BUSY: what a read answers (20_memory.md R62), and that nothing which lands changes the result
of the running command (R60; 60_exceptions.md R137 to R139). -/

namespace Sys2Proof.Machine

/-! ### Reads while BUSY -/

/-- Of the engine a register read sees only whether it is BUSY (R19). -/
theorem readReg_congr_isBusy {s t : State} (hregs : t.regs = s.regs) (hb : t.engine.isBusy = s.engine.isBusy) (r : Reg) :
    readReg t r = readReg s r := by
  cases r <;> simp [readReg, hregs, hb]

/-- What a running command may write depends on the registers and the memory alone (R72). -/
theorem mayWriteByte_congr {s t : State} (hregs : t.regs = s.regs) (hmem : t.mem = s.mem) (i : Instr) (a : Nat) :
    mayWriteByte i t a = mayWriteByte i s a := by
  simp only [mayWriteByte, placedByte, hregs, hmem]

/-- STATUS reads with BUSY = 1 (R62). -/
theorem readRegBusy_status (i : Instr) (draw : Word) (s : State) : (readRegBusy i draw s .status).getLsbD 0 = true := by
  simp [readRegBusy]

/-- A register that the running command may not write reads as stored (R62); STATUS is none. -/
theorem readRegBusy_stored {i : Instr} {r : Reg} (h : mayWriteReg i r = false) (draw : Word) (s : State) :
    readRegBusy i draw s r = readReg s r := by
  have hne : r ≠ .status := by
    rintro rfl
    simp [mayWriteReg] at h
  simp [readRegBusy, hne, h]

@[simp] theorem length_readBytesBusy (i : Instr) (draw : Word) (s : State) (addr : Addr) (size : Size) :
    (readBytesBusy i draw s addr size).length = size.bytes := by
  simp [readBytesBusy]

/-- A byte that the running command may not write stands as stored at its place in the answer (R57, R62). -/
theorem extractLsb'_readBytesBusy {i : Instr} {s : State} {addr : Addr} {size : Size} {k : Nat} (hk : k < size.bytes)
    (h : mayWriteByte i s (addr.toNat + k) = false) (draw : Word) :
    (composeLE (readBytesBusy i draw s addr size)).extractLsb' (8 * k) 8 = s.mem.read (addr.toNat + k) := by
  have h4 := Size.bytes_le_four size
  rw [extractLsb'_composeLE _ (by omega), List.getD_eq_getElem _ _ (by simpa using hk)]
  simp [readBytesBusy, h]

/-- Settles O50: the read answers a draw where the command may write, and the stored value elsewhere. -/
theorem busyReadsKeepTheStateAndShowBusy : Obligations.BusyReadsKeepTheStateAndShowBusy := by
  intro s i left addr size rest he hin hlegal
  have hstep := step_txnBusy he hin
  rcases target_of_legal hlegal with ⟨hlt, ht⟩ | ⟨hge, r, hr, ht⟩
  · simp only [txnBusy, readBusy, ht] at hstep
    refine ⟨_, hstep, fun h => ?_, fun _ h => ?_, fun h => absurd hlt (not_lt.mpr h)⟩
    · subst h
      exact readRegBusy_status _ _ _
    · rw [readRegBusy_stored h]
      refine readReg_congr_isBusy ?_ ?_ _
      · rfl
      · simp [he, Engine.isBusy]
  · simp only [txnBusy, readBusy, ht] at hstep
    refine ⟨_, hstep, fun h => ?_, fun h => absurd h (not_lt.mpr hge), fun _ =>
      ⟨toNat_composeLE_lt (by simp), fun k hk h => ?_⟩⟩
    · subst h
      exact absurd hge (by decide)
    · exact extractLsb'_readBytesBusy hk ((mayWriteByte_congr (s := s) rfl rfl i _).trans h) _

/-! ### A command and what lands while it runs -/

/-- The same memory and the same registers but OVR: all that a command's result depends on (R12, R139). -/
structure SameButOvr (s t : State) : Prop where
  mem : t.mem = s.mem
  regs : t.regs.withoutOvr = s.regs.withoutOvr

theorem SameButOvr.refl (s : State) : SameButOvr s s := ⟨rfl, rfl⟩

theorem SameButOvr.trans {s t u : State} (h : SameButOvr s t) (h' : SameButOvr t u) : SameButOvr s u :=
  ⟨h'.mem.trans h.mem, h'.regs.trans h.regs⟩

/-- The memory and the registers of `s` with OVR as given, everything else that of `p`. -/
def State.overrunAs (p : State) (ovr : Bool) (s : State) : State :=
  { p with mem := s.mem, regs := { s.regs with status := { s.regs.status with ovr := ovr } } }

theorem SameButOvr.eq_overrunAs {s t : State} (h : SameButOvr s t) : t = t.overrunAs t.regs.status.ovr s := by
  obtain ⟨⟨⟨⟩⟩⟩ := s
  obtain ⟨⟨⟨⟩⟩⟩ := t
  obtain ⟨hmem, hregs⟩ := h
  simp_all [Regs.withoutOvr, State.overrunAs]

/-- What does not look at OVR keeps the agreement. -/
theorem SameButOvr.map {s t : State} (h : SameButOvr s t) {f : State → State}
    (hf : ∀ p ovr s, SameButOvr (f s) (f (State.overrunAs p ovr s))) : SameButOvr (f s) (f t) := by
  rw [h.eq_overrunAs]
  exact hf t _ s

section Result

variable {s t : State} (h : SameButOvr s t)
include h

theorem geometry_sameButOvr : t.regs.geometry = s.regs.geometry := by
  rw [h.eq_overrunAs]
  rfl

theorem codec_sameButOvr : t.regs.codec = s.regs.codec := by
  rw [h.eq_overrunAs]
  rfl

theorem reportedError_sameButOvr (i : Instr) : reportedError i t = reportedError i s := by
  rw [h.eq_overrunAs]
  cases i <;> rfl

/-- A body that runs only with a tuple or a legal version. -/
theorem elim_sameButOvr {α : Type} (o : Option α) {f : α → State → State}
    (hf : ∀ x, SameButOvr (f x s) (f x t)) : SameButOvr (o.elim s fun x => f x s) (o.elim t fun x => f x t) := by
  cases o with
  | none => exact h
  | some x => exact hf x

/-- No body looks at OVR. -/
theorem commandBody_sameButOvr (i : Instr) : SameButOvr (commandBody i s) (commandBody i t) := by
  cases i
  case rsInit => exact h.map (f := commandBody .rsInit) fun _ _ _ => ⟨rfl, rfl⟩
  case softReset => exact h.map (f := commandBody .softReset) fun _ _ _ => ⟨rfl, rfl⟩
  case rsEncode =>
    simp only [commandBody, codec_sameButOvr h]
    exact elim_sameButOvr (f := fun c s => { s with mem := s.mem.storeBuf .parBuf (capturedParity c s) }) h _ fun c => by
      rw [h.eq_overrunAs]
      exact ⟨rfl, rfl⟩
  case blockEncode | frameInit | framePlace | maskApply | maskEval | encodeSymbol =>
    simp only [commandBody, geometry_sameButOvr h]
    exact elim_sameButOvr h _ fun g => h.map fun _ _ _ => ⟨rfl, rfl⟩
  all_goals exact h

theorem failingBody_sameButOvr (i : Instr) : SameButOvr (failingBody i s) (failingBody i t) := by
  unfold failingBody
  split
  · exact h.map fun _ _ _ => ⟨rfl, rfl⟩
  · exact h

/-- The result of a command does not depend on OVR (R137, R138). -/
theorem resultOf_sameButOvr (i : Instr) : SameButOvr (resultOf i s) (resultOf i t) := by
  have hissue : SameButOvr (issue i 0 s) (issue i 0 t) := h.map fun _ _ _ => ⟨rfl, rfl⟩
  rw [resultOf_eq, resultOf_eq, reportedError_sameButOvr h]
  cases reportedError i s with
  | none => exact (commandBody_sameButOvr hissue i).map (f := complete) fun _ _ _ => ⟨rfl, rfl⟩
  | some e => exact (failingBody_sameButOvr hissue i).map (f := raise e) fun _ _ _ => ⟨rfl, rfl⟩

end Result

/-- A transaction while BUSY changes OVR at most, of what the running command reads (R62, R139). -/
theorem txnBusy_sameButOvr (i : Instr) (x : Txn) (s : State) :
    SameButOvr s (txnBusy i x s) ∧ (txnBusy i x s).engine = s.engine ∧ (txnBusy i x s).inputs = s.inputs := by
  cases x with
  | read addr size =>
    simp only [txnBusy, readBusy]
    split <;> exact ⟨⟨rfl, rfl⟩, rfl, rfl⟩
  | write addr size data =>
    simp only [txnBusy, writeBusy]
    split <;> exact ⟨⟨rfl, rfl⟩, rfl, rfl⟩

/-- A step of a BUSY core that neither completes nor is reset only counts down and takes its input (R60, R156). -/
theorem whileBusy_sameButOvr (i : Instr) (left : Nat) {s : State} (h : noResets (s.inputs.take 1) = true) :
    SameButOvr s (whileBusy i left s) ∧ (whileBusy i left s).engine = .busy i left ∧
      (whileBusy i left s).inputs = s.inputs.tail := by
  cases hin : s.inputs with
  | nil =>
    have hquiet : whileBusy i left s = { s with engine := .busy i left } := by simp [whileBusy, hin]
    rw [hquiet]
    exact ⟨⟨rfl, rfl⟩, rfl, hin⟩
  | cons n rest =>
    rw [whileBusy_cons hin]
    rw [hin] at h
    cases n with
    | txn x =>
      obtain ⟨hsame, hengine, hinputs⟩ := txnBusy_sameButOvr i x { s with inputs := rest, engine := .busy i left }
      exact ⟨⟨hsame.mem, hsame.regs⟩, hengine, hinputs⟩
    | quiet => exact ⟨⟨rfl, rfl⟩, rfl, rfl⟩
    | rstPin high => simp [noResets] at h
    | powerOn => simp [noResets] at h

/-- The run of a core that makes a step. -/
theorem run_core_succ {s t : State} (h : step s = .next t) (k : Nat) :
    Host.Core.run Sys2Proof.core (k + 1) s = Host.Core.run Sys2Proof.core k t := by
  simp only [Host.Core.run, Host.Check.core_step, h]

/-- The run of a BUSY core to its completion: the command runs on a state that agrees with the one before. -/
theorem run_busy (n : Nat) {s : State} {i : Instr} (he : s.engine = .busy i n)
    (h : noResets (s.inputs.take n) = true) :
    ∃ v, Host.Core.run Sys2Proof.core (n + 1) s = .next (resultOf i v) ∧ SameButOvr s v ∧
      v.inputs = s.inputs.drop n := by
  induction n generalizing s with
  | zero =>
    refine ⟨s, ?_, .refl s, rfl⟩
    rw [run_core_succ ((step_completes he).trans (exec_eq i s))]
    rfl
  | succ n ih =>
    have hfirst : noResets (s.inputs.take 1) = true ∧ noResets (s.inputs.tail.take n) = true := by
      cases hin : s.inputs <;> simp_all [noResets]
    obtain ⟨hsame, hengine, hinputs⟩ := whileBusy_sameButOvr i n hfirst.1
    obtain ⟨v, hrun, hv, hvin⟩ := ih hengine (by rw [hinputs]; exact hfirst.2)
    refine ⟨v, ?_, hsame.trans hv, ?_⟩
    · rw [run_core_succ (step_busy he), hrun]
    · rw [hvin, hinputs, List.drop_tail]

/-- Settles O51: what lands changes OVR at most, and no command's result depends on it. -/
theorem busyCommandIsAtomic : Obligations.BusyCommandIsAtomic := by
  intro n s i he h
  obtain ⟨v, hrun, hsame, hin⟩ := run_busy n he h
  obtain ⟨hengine, -, hinputs, -⟩ := exec_ports i v _ (exec_eq i v)
  obtain ⟨hmem, hregs⟩ := resultOf_sameButOvr hsame i
  exact ⟨_, _, hrun, exec_eq i s, hmem, hregs, hengine, hinputs.trans hin⟩

end Sys2Proof.Machine
end

section
/-! PROOF. Decoding and encoding of command words (30_encoding.md R69 to R71, R76, R77): the two fields of a word are
all the decoder sees and all the encoder writes. -/

namespace Sys2Proof

/-! ### What the decoder sees of a word -/

/-- The decoded command carries the two fields of the word, MASK where it is an operand (R69 to R71): the decoder sees
the word through them alone, and this is the table of R70 row by row. -/
theorem decode_fields (c : Word) :
    (decode c).opcode = opField c ∧ (decode c).maskOperand = if opField c = 0x6#4 then maskField c else 0#3 := by
  unfold decode
  generalize opField c = op, maskField c = m
  revert op m
  decide

/-- Where the encoding of every command puts its fields. -/
theorem encodedFields : ∀ i : Instr, Laws.EncodedFields.Statement i
  | .nop => Laws.EncodedFields.nop
  | .rsInit => Laws.EncodedFields.rsInit
  | .rsEncode => Laws.EncodedFields.rsEncode
  | .blockEncode => Laws.EncodedFields.blockEncode
  | .frameInit => Laws.EncodedFields.frameInit
  | .framePlace => Laws.EncodedFields.framePlace
  | .maskApply m => Laws.EncodedFields.maskApply m
  | .maskEval => Laws.EncodedFields.maskEval
  | .encodeSymbol => Laws.EncodedFields.encodeSymbol
  | .reserved9 => Laws.EncodedFields.reserved9
  | .reservedA => Laws.EncodedFields.reservedA
  | .reservedB => Laws.EncodedFields.reservedB
  | .reservedC => Laws.EncodedFields.reservedC
  | .reservedD => Laws.EncodedFields.reservedD
  | .reservedE => Laws.EncodedFields.reservedE
  | .softReset => Laws.EncodedFields.softReset

theorem decode_encode (i : Instr) : decode (encode i) = i := by
  obtain ⟨-, -, -, -, h⟩ := encodedFields i
  exact h

/-- A command is its opcode and its operand: they are all that its word holds. -/
theorem instr_eq_of_fields {i j : Instr} (hop : i.opcode = j.opcode) (hmask : i.maskOperand = j.maskOperand) :
    i = j := by
  have hword : encode i = encode j := by rw [encode, encode, hop, hmask]
  rw [← decode_encode i, hword, decode_encode]

/-! ### A word as its fields and as its bytes -/

/-- A word is its four fields, from bit 31 down (R69). -/
theorem fields_append (c : Word) : c.extractLsb' 11 21 ++ maskField c ++ c.extractLsb' 4 4 ++ opField c = c := by
  rw [maskField, opField, BitVec.extractLsb'_append_extractLsb'_eq_extractLsb' (start₁ := 8) (len₁ := 3) rfl,
    BitVec.extractLsb'_append_extractLsb'_eq_extractLsb' (start₁ := 4) (len₁ := 4) rfl,
    BitVec.extractLsb'_append_extractLsb'_eq_extractLsb' (start₁ := 0) (len₁ := 4) rfl, BitVec.extractLsb'_eq_self]

/-- A word is its four bytes in bus order (R57). -/
theorem wordOfBytes_extractLsb' (c : Word) :
    wordOfBytes (c.extractLsb' 0 8) (c.extractLsb' 8 8) (c.extractLsb' 16 8) (c.extractLsb' 24 8) = c := by
  rw [wordOfBytes, BitVec.extractLsb'_append_extractLsb'_eq_extractLsb' (start₁ := 16) (len₁ := 8) rfl,
    BitVec.extractLsb'_append_extractLsb'_eq_extractLsb' (start₁ := 8) (len₁ := 8) rfl,
    BitVec.extractLsb'_append_extractLsb'_eq_extractLsb' (start₁ := 0) (len₁ := 8) rfl, BitVec.extractLsb'_eq_self]

/-- The bytes of a word decode as the word (R57, R77). -/
theorem decodeBytes_extractLsb' (c : Word) :
    decodeBytes ((List.range 4).map fun k => c.extractLsb' (8 * k) 8) = .ok (decode c) :=
  congrArg (fun w => Except.ok (decode w)) (wordOfBytes_extractLsb' c)

/-- A word read as a 32-bit row of the opcode table decodes as the word (R70). -/
theorem decodeTableWord_toNat (c : Word) : decodeTableWord 32 c.toNat = some (decode c) := by
  have hc : BitVec.ofNat 32 (c.toNat % 2 ^ 32) = c := by
    rw [Nat.mod_eq_of_lt c.isLt, BitVec.ofNat_toNat, BitVec.setWidth_eq]
  simp only [decodeTableWord, hc, decodeBytes_extractLsb', le_refl, if_true]

/-- What is left of a word's fields under a mask that keeps OP, clears the ignored bits and keeps `m` of MASK. -/
theorem and_fields (c : Word) (m : BitVec 3) :
    c &&& (0#21 ++ m ++ 0#4 ++ BitVec.allOnes 4) = 0#21 ++ (maskField c &&& m) ++ 0#4 ++ opField c := by
  conv_lhs => rw [← fields_append c, BitVec.and_append, BitVec.and_append, BitVec.and_append]
  simp only [BitVec.and_zero, BitVec.and_allOnes]

/-- Encoding a decoded word keeps OP, and MASK where it is an operand, and clears the ignored bits (R69, R71). -/
theorem encode_decode (c : Word) :
    encode (decode c) = c &&& (if opField c = 0x6#4 then 0x0000070F#32 else 0x0000000F#32) := by
  obtain ⟨hop, hmask⟩ := decode_fields c
  rw [encode, hop, hmask]
  split
  · have h := and_fields c (BitVec.allOnes 3)
    rw [BitVec.and_allOnes] at h
    exact h.symm
  · have h := and_fields c 0#3
    rw [BitVec.and_zero] at h
    exact h.symm

/-- Settles O5: every command is found again from its word, and a word from its bytes and from its number; the other way
round, a decoded command carries the word's two fields and nothing else of it. -/
theorem decodeAndEncodeAgree : Obligations.DecodeAndEncodeAgree := by
  refine ⟨fun i _ => ⟨decode_encode i, ?_, ?_⟩, encode_decode⟩
  · rw [encodeBytes, decodeBytes_extractLsb', decode_encode]
  · rw [decodeTableWord_toNat, decode_encode]

/-- Settles O3: two words that agree in these fields decode to commands with the same opcode and operand. -/
theorem opcodeFieldAloneSelectsTheCommand : Obligations.OpcodeFieldAloneSelectsTheCommand := by
  refine ⟨fun c => (decode_fields c).1, fun c d hop hmask => ?_⟩
  obtain ⟨hcop, hcmask⟩ := decode_fields c
  obtain ⟨hdop, hdmask⟩ := decode_fields d
  refine instr_eq_of_fields (by rw [hcop, hdop]; exact hop) ?_
  rw [hcmask, hdmask, opField, opField, ← hop]
  split
  · exact hmask ‹_›
  · rfl

/-- Settles O4, by decoding the nine words. -/
theorem writtenOutWordsDecode : Obligations.WrittenOutWordsDecode := by
  unfold Obligations.WrittenOutWordsDecode
  decide

end Sys2Proof
end

section
/-! PROOF. The memory bytes a command leaves alone (30_encoding.md R72): each body writes no byte outside the list of
its rule, and FRAME_PLACE neither a fixed cell nor column 6 (42_frame.md R109, R112). -/

namespace Sys2Proof.Machine

/-! ### The cells that placement leaves alone -/

/-- The right column of every pair is inside the grid, and no pair has column 6 (R109): an even start comes down to 6
and goes on from 5. -/
theorem mem_rightColumns {fuel right r : Nat} (h : r ∈ rightColumns fuel right) (hr : right ≤ 5 ∨ right % 2 = 0) :
    1 ≤ r ∧ r ≤ right ∧ (r ≤ 5 ∨ 8 ≤ r) := by
  induction fuel generalizing right with
  | zero => simp [rightColumns] at h
  | succ fuel ih =>
    unfold rightColumns at h
    split at h
    · simp at h
    · rcases List.mem_cons.mp h with rfl | h
      · split <;> omega
      · have := ih h (by split <;> omega)
        split at this <;> omega

/-- Every visited cell is a cell of the grid outside column 6 (R109), for a grid of odd width. -/
theorem mem_traversal {w : Nat} {c : Nat × Nat} (h : c ∈ traversal w) (hw : w % 2 = 1) :
    c.1 < w ∧ c.2 < w ∧ c.1 ≠ 6 := by
  obtain ⟨right, hright, hc⟩ := List.mem_flatMap.mp h
  obtain ⟨t, ht, hc⟩ := List.mem_flatMap.mp hc
  have hcol := mem_rightColumns hright (by omega)
  have hrow := List.mem_range.mp ht
  have hy : (if pairUpward right then w - 1 - t else t) < w := by split <;> omega
  rcases List.mem_pair.mp hc with rfl | rfl
  · exact ⟨by omega, hy, by omega⟩
  · exact ⟨by omega, hy, by omega⟩

/-- Placement changes no cell that it does not visit, and no fixed one (R110). -/
theorem getD_placeBits {ks : List Nat} {bits : List Bool} {cells : List Byte} {k : Nat}
    (h : k ∉ ks ∨ isFixed (cells.getD k 0#8) = true) :
    (placeBits ks bits cells).getD k 0#8 = cells.getD k 0#8 := by
  induction ks generalizing bits cells with
  | nil => rfl
  | cons j ks ih =>
    have h' : k ∉ ks ∨ isFixed (cells.getD k 0#8) = true := h.imp_left fun h hk => h (List.mem_cons_of_mem _ hk)
    unfold placeBits
    split
    case isTrue => exact ih h'
    case isFalse hfree =>
      have hne : j ≠ k := by
        rintro rfl
        exact h.elim (fun h => h List.mem_cons_self) hfree
      have hset : (cells.set j (dataCell (bits.headD false))).getD k 0#8 = cells.getD k 0#8 := by
        simp [List.getD_eq_getElem?_getD, hne]
      rw [ih (by rwa [hset]), hset]

/-- FRAME_PLACE's frame keeps the cells of column 6 and the fixed ones (R109, R112). -/
theorem getD_placedFrame {w : Nat} (hw : w % 2 = 1) {bits : List Bool} {cells : List Byte} {k : Nat}
    (h : k % w = 6 ∨ isFixed (cells.getD k 0#8) = true) :
    (placedFrame w bits cells).getD k 0#8 = cells.getD k 0#8 := by
  refine getD_placeBits (h.imp_left fun h hk => ?_)
  obtain ⟨c, hc, rfl⟩ := List.mem_map.mp hk
  obtain ⟨hx, -, hne⟩ := mem_traversal hc hw
  rw [cellIndex, Nat.add_comm, Nat.add_mul_mod_self_right, Nat.mod_eq_of_lt hx] at h
  exact hne h

/-- Every symbol has an odd width (R90). -/
theorem width_odd (g : Geometry) : g.width % 2 = 1 := by
  simp only [Geometry.width, width]
  omega

/-! ### The bytes that the body of a command leaves alone -/

/-- A store from a region's start changes only the first bytes of the region. -/
theorem read_storeBuf_outside {m : Memory} {r : Region} {bytes : List Byte} {n a : Nat} (hlen : bytes.length ≤ n)
    (h : inBuf r n a = false) : (m.storeBuf r bytes).read a = m.read a := by
  have ha : ¬ (regionBase r ≤ a ∧ a < regionBase r + n) := by simpa [inBuf] using h
  exact read_store_outside _ _ _ _ (by omega)

/-- A successful RS_INIT writes the three tables alone (R85). -/
theorem read_captureCodec (t : CodecTuple) {s : State} {a : Nat} (h : isTableAddr a = false) :
    (captureCodec t s).mem.read a = s.mem.read a := by
  refine (stores_captureCodec t .refl (List.Subset.refl _)).read_eq fun r hr => ?_
  have ha : ¬ (0x03100 ≤ a ∧ a < 0x03400) := by simpa [isTableAddr] using h
  rw [Bool.eq_false_iff, Ne, inRegion_iff]
  simp only [List.mem_cons, List.not_mem_nil, or_false] at hr
  rcases hr with rfl | rfl | rfl <;> simp only [regionBase, regionSize] <;> omega

theorem read_clearTables_off {m : Memory} {a : Nat} (h : isTableAddr a = false) :
    (clearTables m).read a = m.read a := by
  rw [read_clearTables, h, if_neg Bool.false_ne_true]

section Bodies

variable {g : Geometry} {s : State} {a : Nat}

theorem read_blockEncodeBody {v : Nat} (hg : geometry v = some g) (h : inBuf .cwBuf g.total a = false) :
    (blockEncodeBody g s).mem.read a = s.mem.read a :=
  read_storeBuf_outside (length_codewordStream_geometry hg _ (by simp [Regs.blockSpec])).le h

theorem read_frameInitBody (h : inBuf .grid g.modules a = false) :
    (frameInitBody g s).mem.read a = s.mem.read a :=
  read_storeBuf_outside (length_skeleton g).le h

/-- A byte that FRAME_PLACE does not list: outside the grid, or a cell that placement leaves alone. -/
theorem read_framePlaceBody (h : placedByte g s a = false) :
    (framePlaceBody g s).mem.read a = s.mem.read a := by
  cases hin : inBuf .grid g.modules a with
  | false => exact read_storeBuf_outside (by simp) hin
  | true =>
    have ha : regionBase .grid ≤ a ∧ a < regionBase .grid + g.modules := by simpa [inBuf] using hin
    obtain ⟨k, rfl⟩ := Nat.exists_eq_add_of_le ha.1
    have hk : k < g.modules := by omega
    have hcell : (s.mem.gridCells g).getD k 0#8 = s.mem.read (regionBase .grid + k) := by
      rw [List.getD_eq_getElem _ _ (by simpa using hk)]
      simp [Memory.gridCells]
    have hkeep : k % g.width = 6 ∨ isFixed ((s.mem.gridCells g).getD k 0#8) = true := by
      rw [hcell]
      simpa [placedByte, hin, or_iff_not_imp_left] using h
    rw [framePlaceBody_mem, read_storeBuf_same _ _ _ (by simpa using hk), ← hcell]
    exact getD_placedFrame (width_odd g) hkeep

theorem read_writeResult (m : BitVec 3) (board : Vector ScoreEntry 8) (n : Memory)
    (h : inBuf .out g.modules a = false) :
    (writeResult g m board (n.gridCells g) s).mem.read a = s.mem.read a :=
  read_storeBuf_outside (by simp) h

/-- ENCODE runs four bodies, and each keeps the bytes outside all three lists (R129). -/
theorem read_encodeBody {v : Nat} (hg : geometry v = some g)
    (h : (inBuf .cwBuf g.total a || inBuf .grid g.modules a || inBuf .out g.modules a) = false) :
    (encodeBody g s).mem.read a = s.mem.read a := by
  simp only [Bool.or_eq_false_iff] at h
  obtain ⟨⟨hcw, hgrid⟩, hout⟩ := h
  calc (encodeBody g s).mem.read a
      = (framePlaceBody g (frameInitBody g (blockEncodeBody g s))).mem.read a := read_writeResult _ _ _ hout
    _ = (frameInitBody g (blockEncodeBody g s)).mem.read a := read_framePlaceBody (by simp [placedByte, hgrid])
    _ = (blockEncodeBody g s).mem.read a := read_frameInitBody hgrid
    _ = s.mem.read a := read_blockEncodeBody hg hcw

end Bodies

/-- A body that runs only with a tuple or a legal version keeps a byte when it does with each. -/
theorem read_elim {α : Type} {o : Option α} {s : State} {f : α → State} {a : Nat}
    (h : ∀ x, o = some x → (f x).mem.read a = s.mem.read a) : (o.elim s f).mem.read a = s.mem.read a :=
  elim_of_cases (·.mem.read a = s.mem.read a) rfl h

/-- The body of a command writes no byte outside the list of its rule (R72). -/
theorem read_commandBody {i : Instr} {s : State} {a : Nat} (h : mayWriteByte i s a = false) :
    (commandBody i s).mem.read a = s.mem.read a := by
  cases i with
  | rsInit => exact read_captureCodec _ h
  | rsEncode =>
    exact read_elim fun t ht =>
      read_storeBuf_outside (length_parity_le _ _ _ _) (by simpa only [mayWriteByte, ht] using h)
  | blockEncode =>
    exact read_elim fun g hg => read_blockEncodeBody hg (by simpa only [mayWriteByte, hg] using h)
  | frameInit =>
    exact read_elim fun g hg => read_frameInitBody (by simpa only [mayWriteByte, hg] using h)
  | framePlace =>
    exact read_elim fun g hg => read_framePlaceBody (by simpa only [mayWriteByte, hg] using h)
  | maskApply m =>
    exact read_elim fun g hg => read_writeResult m _ _ (by simpa only [mayWriteByte, hg] using h)
  | maskEval =>
    exact read_elim fun g hg => read_writeResult _ _ _ (by simpa only [mayWriteByte, hg] using h)
  | encodeSymbol =>
    exact read_elim fun g hg => read_encodeBody hg (by simpa only [mayWriteByte, hg] using h)
  | softReset => exact read_clearTables_off h
  | nop | reserved9 | reservedA | reservedB | reservedC | reservedD | reservedE => rfl

/-- Nor does a failing command, for RS_INIT lists the tables that it clears (R72, R85). -/
theorem read_failingBody {i : Instr} {s : State} {a : Nat} (h : mayWriteByte i s a = false) :
    (failingBody i s).mem.read a = s.mem.read a := by
  unfold failingBody
  split
  · subst i
    exact read_clearTables_off h
  · rfl

/-- The list of a command does not depend on the STATUS that its issue writes. -/
theorem mayWriteByte_issue (i j : Instr) (n : Nat) (s : State) (a : Nat) :
    mayWriteByte i (issue j n s) a = mayWriteByte i s a := by
  cases i <;> rfl

/-- Settles O11: a command runs its body or raises, and neither writes a byte outside the list. -/
theorem commandsWriteNoUnlistedByte : Obligations.CommandsWriteNoUnlistedByte := by
  refine fun i s => ⟨_, exec_eq i s, fun a ha => ?_⟩
  rw [← mayWriteByte_issue i i 0 s a] at ha
  rw [resultOf_eq]
  cases reportedError i s with
  | none => exact read_commandBody ha
  | some e => exact read_failingBody ha

end Sys2Proof.Machine
end

section
/-! PROOF. Reed-Solomon arithmetic (40_rs_codec.md R84, R86, R87): the coefficients of the generator polynomial, and the
shift register as long division. -/

namespace Sys2Proof.Machine

/-! ### The generator polynomial -/

/-- A sum of two lists of one length, byte by byte. -/
theorem getD_xorBytes {a b : List Byte} (h : a.length = b.length) (k : Nat) :
    (xorBytes a b).getD k 0#8 = a.getD k 0#8 ^^^ b.getD k 0#8 := by
  by_cases hk : k < a.length
  · rw [List.getD_eq_getElem _ _ (by simp; omega), List.getD_eq_getElem _ _ hk, List.getD_eq_getElem _ _ (h ▸ hk)]
    exact List.getElem_zipWith
  · rw [List.getD_eq_default _ _ (by simp; omega), List.getD_eq_default _ _ (by omega),
      List.getD_eq_default _ _ (by omega)]
    rfl

/-- Multiplication by a root, coefficient by coefficient (R84). -/
theorem getD_mulRoot {mul : Byte → Byte → Byte} {r : Byte} (hmul : mul 0#8 r = 0#8) (g : List Byte) (k : Nat) :
    (mulRoot mul r g).getD k 0#8 = (if k = 0 then 0#8 else g.getD (k - 1) 0#8) ^^^ mul (g.getD k 0#8) r := by
  have hlow : (0#8 :: g).getD k 0#8 = if k = 0 then 0#8 else g.getD (k - 1) 0#8 := by cases k <;> rfl
  have hhigh : (g.map (fun c => mul c r) ++ [0#8]).getD k 0#8 = mul (g.getD k 0#8) r := by
    rcases lt_trichotomy k g.length with h | rfl | h
    · simp [List.getD_eq_getElem?_getD, h, List.getElem?_append_left]
    · simp [List.getD_eq_getElem?_getD, hmul]
    · rw [List.getD_eq_default _ _ (by simp; omega), List.getD_eq_default _ _ h.le, hmul]
  rw [mulRoot, getD_xorBytes (by simp), hlow, hhigh]

theorem GfTables.zero_mul (t : GfTables) (b : Byte) : t.mul 0#8 b = 0#8 := if_pos (.inl rfl)

/-- One root more, coefficient by coefficient (R84). -/
theorem getD_generator_succ (t : GfTables) (fcr prim n k : Nat) :
    (generator t fcr prim (n + 1)).getD k 0#8 = (if k = 0 then 0#8 else (generator t fcr prim n).getD (k - 1) 0#8) ^^^
      t.mul ((generator t fcr prim n).getD k 0#8) (t.pow (rootExponent fcr prim n)) :=
  getD_mulRoot (t.zero_mul _) _ k

/-- The generator polynomial is monic (R84). -/
theorem getD_generator_degree (t : GfTables) (fcr prim n : Nat) : (generator t fcr prim n).getD n 0#8 = 1#8 := by
  induction n with
  | zero => rfl
  | succ n ih =>
    have hnone : (generator t fcr prim n).getD (n + 1) 0#8 = 0#8 := List.getD_eq_default _ _ (by simp)
    rw [getD_generator_succ, if_neg n.succ_ne_zero, Nat.add_sub_cancel, ih, hnone, t.zero_mul]
    rfl

/-- Settles O18: the coefficients by the recursion of `generator`, the leading one by induction on the roots. -/
theorem generatorIsTheProductOfItsRoots : Obligations.GeneratorIsTheProductOfItsRoots := fun t fcr prim n =>
  ⟨rfl, getD_generator_succ t fcr prim n, getD_generator_degree t fcr prim n, length_generator t fcr prim n,
    fun _ _ => rfl, fun _ => rfl⟩

/-! ### The shift register -/

/-- Adding zeros changes nothing. -/
theorem xorInto_replicate_zero (w : List Byte) (n : Nat) : xorInto w (List.replicate n 0#8) = w := by
  induction w generalizing n with
  | nil => cases n <;> rfl
  | cons a w ih =>
    cases n with
    | zero => rfl
    | succ n => simp [List.replicate_succ, xorInto, gfAdd, ih]

/-- Adding into zeros gives the bytes added. -/
theorem replicate_zero_xorInto (b : List Byte) : xorInto (List.replicate b.length 0#8) b = b := by
  induction b with
  | nil => rfl
  | cons b bs ih => simp [List.replicate_succ, xorInto, gfAdd, ih]

/-- Two additions in sequence are one addition of the sum, where the first is at most one byte the shorter. -/
theorem xorInto_xorInto {w a b : List Byte} (hab : a.length ≤ b.length) (hba : b.length ≤ a.length + 1)
    (hw : b.length ≤ w.length) : xorInto (xorInto w a) b = xorInto w (xorBytes (a ++ [0#8]) b) := by
  induction w generalizing a b with
  | nil =>
    obtain rfl : b = [] := List.length_eq_zero_iff.mp (by simpa using hw)
    cases a <;> simp [xorInto, xorBytes] at hab ⊢
  | cons c w ih =>
    cases b with
    | nil => cases a <;> simp [xorInto, xorBytes] at hab ⊢
    | cons y bs =>
      cases a with
      | nil =>
        obtain rfl : bs = [] := List.length_eq_zero_iff.mp (by simpa using hba)
        simp [xorInto, xorBytes, gfAdd]
      | cons x as =>
        simp only [List.length_cons, Nat.add_le_add_iff_right] at hab hba hw
        have hrest := ih hab hba hw
        simp only [xorBytes] at hrest
        simp [xorInto, xorBytes, gfAdd, hrest, BitVec.xor_assoc]

/-- The leading byte of a dividend that the register is added into, and what is left behind it. -/
theorem xorInto_cons_headD (d : Byte) (w par : List Byte) :
    xorInto (d :: w) par = gfAdd d (par.headD 0#8) :: xorInto w par.tail := by
  cases par with
  | nil => simp [xorInto, gfAdd]
  | cons p ps => rfl

/-- The register holds what has to be added to the rest of the dividend (R86, R87): each step takes the leading
coefficient off both. -/
theorem shiftRegister_eq_longDivision (mul : Byte → Byte → Byte) {gTop par : List Byte}
    (hpar : par.length = gTop.length) (data : List Byte) :
    shiftRegister mul gTop par data =
      longDivision mul gTop data.length (xorInto (data ++ List.replicate gTop.length 0#8) par) := by
  induction data generalizing par with
  | nil =>
    rw [List.nil_append, ← hpar, replicate_zero_xorInto]
    rfl
  | cons d ds ih =>
    have hstep : (shiftStep mul gTop par (gfAdd d (par.headD 0#8))).length = gTop.length := by
      simp only [shiftStep, length_xorBytes, List.length_append, List.length_tail, List.length_map, hpar,
        List.length_singleton]
      omega
    rw [List.cons_append, xorInto_cons_headD, List.length_cons, longDivision, shiftRegister, ih hstep, shiftStep,
      xorInto_xorInto]
    · simp [hpar]
    · simp only [List.length_map, List.length_tail]
      omega
    · simp

/-- Settles O19: the register starts at zero, which adds nothing to the dividend. -/
theorem shiftRegisterIsPolynomialDivision : Obligations.ShiftRegisterIsPolynomialDivision := by
  intro mul n g data hn
  have hlen : (lowerHighFirst n g).length = n := by simpa [lowerHighFirst] using hn
  rw [parity, shiftRegister_eq_longDivision mul (by simp [hlen]), xorInto_replicate_zero, hlen]
  rfl

end Sys2Proof.Machine
end

section
/-! PROOF. RS_INIT and RS_ENCODE (40_rs_codec.md R81, R83, R85, R89): the field tables, the valid tuples, and the state
that each command leaves. -/

namespace Sys2Proof.Machine

/-! ### What a command leaves, from the laws of all commands -/

/-- A command without an error runs its body between its issue and its completion (R138). -/
theorem resultOf_of_no_error {i : Instr} {s : State} (h : reportedError i s = none) :
    resultOf i s = complete (commandBody i (issue i 0 s)) := by
  rw [resultOf_eq, h]
  rfl

/-- A command keeps the ports and leaves the engine IDLE (R138). -/
theorem resultOf_ports (i : Instr) (s : State) : (resultOf i s).engine = .idle ∧ SamePorts s (resultOf i s) :=
  exec_ports i s _ (exec_eq i s)

/-- A command whose list lies in a block of bytes leaves every byte outside it (R72). -/
theorem resultOf_sameBytesOutside {i : Instr} {s : State} {base len : Nat}
    (h : ∀ a, a < base ∨ base + len ≤ a → mayWriteByte i s a = false) :
    SameBytesOutside base len s (resultOf i s) := by
  obtain ⟨t, ht, hbytes⟩ := commandsWriteNoUnlistedByte i s
  obtain rfl : resultOf i s = t := by
    rw [exec_eq] at ht
    injection ht
  exact fun a ha => hbytes a (h a ha)

/-- The first bytes of a region, as an interval of addresses. -/
theorem inBuf_eq_false {r : Region} {len a : Nat} (h : a < regionBase r ∨ regionBase r + len ≤ a) :
    inBuf r len a = false := by
  simp only [inBuf, Bool.and_eq_false_iff, decide_eq_false_iff_not]
  omega

/-- RS_INIT writes the table bytes alone (R72, R85). -/
theorem rsInit_sameBytesOutside (s : State) : SameBytesOutside 0x03100 768 s (resultOf .rsInit s) := by
  refine resultOf_sameBytesOutside fun a ha => ?_
  simp only [mayWriteByte, isTableAddr, Bool.and_eq_false_iff, decide_eq_false_iff_not]
  omega

/-! ### The field tables -/

/-- An antilog entry below 255 is the power of x (R81). -/
theorem getD_antilogTable (P : BitVec 9) {k : Nat} (hk : k < 255) :
    (antilogTable P).getD k 0 = (timesX P)^[k] 1#8 := by
  rw [List.getD_eq_getElem _ _ (by simp; omega)]
  simp only [antilogTable]
  rw [List.getElem_append_left (by simp [fieldSequence]; omega), List.getElem_take]
  exact getElem_powersOf P 256 1#8 k _

/-- The last antilog entry stands for log(0) (R81). -/
theorem getD_antilogTable_last (P : BitVec 9) : (antilogTable P).getD 255 0 = 0 := by
  rw [antilogTable, List.getD_append_right _ _ _ _ (by simp)]
  simp [fieldSequence]

/-- The log entry of 0 (R81). -/
theorem getD_logTable_zero (P : BitVec 9) : (logTable P).getD 0 0 = 255#8 := by simp [logTable]

/-- A power of x is found at its own exponent when the powers are distinct (R81). -/
theorem idxOf_fieldSequence {P : BitVec 9} (hP : primitive P = true) {k : Nat} (hk : k < 255) :
    (fieldSequence P).idxOf ((timesX P)^[k] 1#8) = k := by
  have hnodup : ((fieldSequence P).take 255).Nodup := by
    simp only [primitive, Bool.and_eq_true, decide_eq_true_eq] at hP
    exact hP.1.1
  have hlen : k < ((fieldSequence P).take 255).length := by simp [fieldSequence]; omega
  have hentry : ((fieldSequence P).take 255)[k] = (timesX P)^[k] 1#8 := by
    rw [List.getElem_take]
    exact getElem_powersOf P 256 1#8 k _
  rw [← hentry, ← (List.take_prefix 255 _).idxOf_eq_of_mem (List.getElem_mem hlen)]
  exact hnodup.idxOf_getElem k hlen

/-- The log table inverts the powers of x (R81). -/
theorem getD_logTable {P : BitVec 9} (hP : primitive P = true) {k : Nat} (hk : k < 255) :
    (logTable P).getD ((timesX P)^[k] 1#8).toNat 0 = BitVec.ofNat 8 k := by
  have hnonzero : ((timesX P)^[k] 1#8).toNat ≠ 0 := by
    rw [iterate_timesX_toNat]
    exact ((primitive_iff P).mp hP).1 k hk
  rw [List.getD_eq_getElem _ _ (by rw [length_logTable]; exact BitVec.isLt _)]
  simp [logTable, hnonzero, idxOf_fieldSequence hP hk]

/-! ### RS_INIT -/

/-- The checks of R83 are its five conditions. -/
theorem valid_iff (t : CodecTuple) : t.valid = true ↔ ValidTuple t := by
  simp only [CodecTuple.valid, ValidTuple, Bool.and_eq_true, decide_eq_true_eq, primitive_iff]
  constructor
  · rintro ⟨⟨⟨⟨h8, hroots⟩, hpad⟩, hprim⟩, hP⟩
    exact ⟨h8, hroots, by omega, hprim, hP⟩
  · rintro ⟨h8, hroots, hpad, hprim, hP⟩
    exact ⟨⟨⟨⟨h8, hroots⟩, by omega⟩, hprim⟩, hP⟩

/-- A valid tuple's polynomial is primitive (R83). -/
theorem primitive_of_valid {t : CodecTuple} (h : t.valid = true) : primitive t.gfpoly = true := by
  simp only [CodecTuple.valid, Bool.and_eq_true] at h
  exact h.2

/-- GENPOLY is the generator's coefficients with 0 behind them (R41). -/
theorem getD_genpolyTable (t : CodecTuple) (k : Nat) : t.genpolyTable.getD k 0 = t.generator.getD k 0 := by
  by_cases h : k < t.generator.length
  · exact List.getD_append _ _ _ _ h
  · have hge := not_lt.mp h
    rw [CodecTuple.genpolyTable, List.getD_append_right _ _ _ _ hge, List.getD_eq_default _ _ hge,
      List.getD_eq_getElem?_getD, List.getElem?_replicate]
    split <;> rfl

/-- Settles O16: the tables are those of the captured tuple, and each entry is R81's or R84's. -/
theorem rsInitBuildsTablesAndGenerator : Obligations.RsInitBuildsTablesAndGenerator := by
  intro s c hc hvalid
  have hnone : reportedError .rsInit s = none := by
    rw [hc] at hvalid
    exact if_pos hvalid
  have hresult : resultOf .rsInit s = complete (captureCodec c (issue .rsInit 0 s)) := by
    rw [resultOf_of_no_error hnone, hc]
    rfl
  have hP := primitive_of_valid hvalid
  obtain ⟨-, hmem⟩ := captureCodec_coherent hvalid (issue .rsInit 0 s)
  have halpha := fun k hk => (hmem k hk).1
  have hindex := fun k hk => (hmem k hk).2.1
  have hgenpoly := fun k hk => (hmem k hk).2.2
  obtain ⟨hidle, hports⟩ := resultOf_ports .rsInit s
  refine ⟨_, exec_eq _ _, fun k hk => ?_, ?_, fun k hk => ?_, ?_, fun k hk => ?_, ?_, ?_,
    rsInit_sameBytesOutside s, ?_, hidle, hports⟩ <;> rw [hresult]
  · exact (halpha k (by omega)).trans (getD_antilogTable _ hk)
  · exact (halpha 255 (by omega)).trans (getD_antilogTable_last _)
  · exact (hindex _ (BitVec.isLt _)).trans (getD_logTable hP hk)
  · exact (hindex 0 (by omega)).trans (getD_logTable_zero _)
  · exact (hgenpoly k hk).trans (getD_genpolyTable c k)
  · exact (hgenpoly _ c.nroots.isLt).trans ((getD_genpolyTable c _).trans (getD_generator_degree _ _ _ _))
  · rfl
  · rfl

/-- Settles O17: the checks of RS_INIT are `ValidTuple`, and its failing half clears the codec. -/
theorem failingRsInitInvalidatesTheCodec : Obligations.FailingRsInitInvalidatesTheCodec := by
  refine ⟨valid_iff, fun s hs => ?_⟩
  have hvalid : s.regs.programmedTuple.valid = false := by
    rw [← valid_iff] at hs
    exact Bool.eq_false_iff.mpr hs
  have hresult : resultOf .rsInit s = raise .invalidRSParameters (invalidateCodec (issue .rsInit 0 s)) := by
    rw [resultOf_eq, reportedError, hvalid]
    rfl
  obtain ⟨hidle, hports⟩ := resultOf_ports .rsInit s
  refine ⟨_, exec_eq _ _, ?_, ?_, fun k hk => ?_, rsInit_sameBytesOutside s, hidle, hports⟩ <;> rw [hresult]
  · rfl
  · rfl
  · have htable : isTableAddr (0x03100 + k) = true := by
      simp only [isTableAddr, Bool.and_eq_true, decide_eq_true_eq]
      omega
    exact (read_clearTables s.mem _).trans (if_pos htable)

/-! ### RS_ENCODE -/

/-- Settles O20: the shift register of RS_ENCODE gives the remainder of the division (R87). -/
theorem rsEncodeWritesTheDivisionRemainder : Obligations.RsEncodeWritesTheDivisionRemainder := by
  intro s c hc hsrc
  have hnone : reportedError .rsEncode s = none := by
    simp only [reportedError, hc]
    exact if_neg (Nat.not_lt.mpr hsrc)
  have hresult : resultOf .rsEncode s = complete { issue .rsEncode 0 s with
      mem := s.mem.storeBuf .parBuf (capturedParity c s) } := by
    rw [resultOf_of_no_error hnone]
    simp [commandBody, hc]
  have hlen : c.nroots.toNat ≤ s.mem.codecGenerator.length := by
    rw [Memory.codecGenerator, length_readBuf]
    exact c.nroots.isLt.le
  have hparity := shiftRegisterIsPolynomialDivision s.mem.codecTables.mul c.nroots.toNat s.mem.codecGenerator
    (s.mem.readBuf .dataBuf s.regs.rsSrc.toNat c.k) hlen
  obtain ⟨hidle, hports⟩ := resultOf_ports .rsEncode s
  refine ⟨_, exec_eq _ _, fun j hj => ?_, resultOf_sameBytesOutside fun a ha => ?_, ?_, hidle, hports⟩
  · rw [hresult]
    refine (read_storeBuf_same s.mem .parBuf (capturedParity c s) ?_).trans ?_
    · rw [capturedParity, length_parity _ _ _ _ hlen (by omega)]
      exact hj
    · rw [capturedParity, hparity]
      rfl
  · simp only [mayWriteByte, hc]
    exact inBuf_eq_false ha
  · rw [hresult]
    rfl

end Sys2Proof.Machine
end

section
/-! PROOF. BLOCK_ENCODE (41_blocks.md R94, R96 to R98): the constant tables of the QR codec, the blocks, and the entries
of their round-robin interleave. -/

namespace Sys2Proof.Machine

/-! ### The constant tables of the QR codec -/

/-- The antilog constants are the powers of x in the field 0x11D (R81, R94). -/
theorem qrTables_alpha : qrTables.alpha = antilogTable 0x11D#9 := by decide +kernel

/-- When 256 antilog entries reach all 256 elements, each is reached once, so the powers of x are distinct and non-zero
(R81). -/
theorem primitive_of_antilogs {P : BitVec 9} {index : List Byte}
    (h : index.map (fun i => (antilogTable P).getD i.toNat 0) = (List.range 256).map (BitVec.ofNat 8))
    (hend : (fieldSequence P).getD 255 0#8 = 1#8) : primitive P = true := by
  have hall : ((List.range 256).map (BitVec.ofNat 8)).Nodup := by
    refine List.nodup_range.map_on fun a ha b hb hab => ?_
    have hnat := congrArg BitVec.toNat hab
    rwa [BitVec.toNat_ofNat, BitVec.toNat_ofNat, Nat.mod_eq_of_lt (List.mem_range.mp ha),
      Nat.mod_eq_of_lt (List.mem_range.mp hb)] at hnat
  have hsub : (List.range 256).map (BitVec.ofNat 8) ⊆ antilogTable P := by
    rw [← h]
    intro a ha
    obtain ⟨i, -, rfl⟩ := List.mem_map.mp ha
    rw [List.getD_eq_getElem _ _ (by rw [length_antilogTable]; exact i.isLt)]
    exact List.getElem_mem _
  have hnodup := ((List.subperm_of_subset hall hsub).perm_of_length_le (by simp)).nodup_iff.mp hall
  obtain ⟨hpowers, -, hnonzero⟩ := List.nodup_append.mp hnodup
  simp only [primitive, Bool.and_eq_true, decide_eq_true_eq, List.all_eq_true, bne_iff_ne, beq_iff_eq]
  exact ⟨⟨hpowers, fun b hb => hnonzero b hb 0#8 (by simp)⟩, hend⟩

/-- The log table is the one table of logs whose antilogs are the elements themselves (R81). -/
theorem eq_logTable {P : BitVec 9} (hP : primitive P = true) {index : List Byte}
    (h : index.map (fun i => (antilogTable P).getD i.toNat 0) = (List.range 256).map (BitVec.ofNat 8)) :
    index = logTable P := by
  have hlen : index.length = 256 := by simpa using congrArg List.length h
  refine List.ext_getElem (by rw [hlen, length_logTable]) fun n hn hn' => ?_
  have hnat : (BitVec.ofNat 8 n).toNat = n := Nat.mod_eq_of_lt (by omega)
  have hentry : (antilogTable P).getD index[n].toNat 0 = BitVec.ofNat 8 n := by
    simpa using List.getElem_of_eq h (i := n) (by simpa using hn)
  rw [← List.getD_eq_getElem _ 0 hn']
  by_cases hlt : index[n].toNat < 255
  · have hlog := getD_logTable hP hlt
    rw [getD_antilogTable _ hlt] at hentry
    rw [hentry, hnat, BitVec.ofNat_toNat, BitVec.setWidth_eq] at hlog
    exact hlog.symm
  · have hlast : index[n] = 255#8 := BitVec.eq_of_toNat_eq (by simp; omega)
    have hzero : n = 0 := by
      rw [hlast] at hentry
      rw [← hnat, ← hentry]
      exact congrArg BitVec.toNat (getD_antilogTable_last P)
    rw [hlast, hzero, getD_logTable_zero]

/-- The antilog of the log of every element is the element (R81, R94); for 0 it is the last entry. -/
theorem qrTables_antilogs : qrTables.index.map (fun i => (antilogTable 0x11D#9).getD i.toNat 0) =
    (List.range 256).map (BitVec.ofNat 8) := by
  rw [← qrTables_alpha]
  decide +kernel

/-- 0x11D is a primitive polynomial (R81, R94). -/
theorem primitive_0x11D : primitive 0x11D#9 = true :=
  primitive_of_antilogs qrTables_antilogs (by decide +kernel)

/-- The constants are the tables of the field 0x11D (R81, R94). -/
theorem qrTables_eq : qrTables = gfTables 0x11D#9 := by
  rw [gfTables, ← qrTables_alpha, ← eq_logTable primitive_0x11D qrTables_antilogs]

/-- Entry by entry they are the sequence of R81 and its inverse. -/
theorem qrTables_entries : qrTables.alpha.length = 256 ∧ qrTables.index.length = 256 ∧
    qrTables.alpha.getD 255 0 = 0#8 ∧ qrTables.index.getD 0 0 = 255#8 ∧
    ∀ k < 255, qrTables.alpha.getD k 0 = BitVec.ofNat 8 (fieldPower 0x11D#9 k) ∧
      qrTables.index.getD (fieldPower 0x11D#9 k) 0 = BitVec.ofNat 8 k := by
  rw [qrTables_eq]
  refine ⟨length_antilogTable _, length_logTable _, getD_antilogTable_last _, getD_logTable_zero _, fun k hk => ?_⟩
  rw [← iterate_timesX_toNat, BitVec.ofNat_toNat, BitVec.setWidth_eq]
  exact ⟨getD_antilogTable _ hk, getD_logTable primitive_0x11D hk⟩

/-- The parity of a block is the remainder of its division over the field 0x11D (R86, R94). -/
theorem qrParity_eq_divisionRemainder (ecc : Nat) (block : List Byte) : qrParity ecc block =
    divisionRemainder (gfTables 0x11D#9).mul ecc (generator (gfTables 0x11D#9) 0 1 ecc) block := by
  rw [← qrTables_eq]
  exact shiftRegisterIsPolynomialDivision _ _ _ _ (by simp [qrGenerator])

/-! ### The round-robin -/

/-- A column that no block is without has each block's byte (R97). -/
theorem filterMap_column {c : Nat} {blocks : List (List Byte)} (h : ∀ b ∈ blocks, c < b.length) :
    (blocks.filterMap fun b => b[c]?) = blocks.map fun b => b.getD c 0 := by
  rw [← List.filterMap_eq_map]
  refine List.filterMap_congr fun b hb => ?_
  simp [h b hb]

/-- A column that every block is without is empty (R97). -/
theorem filterMap_column_none {c : Nat} {blocks : List (List Byte)} (h : ∀ b ∈ blocks, b.length ≤ c) :
    (blocks.filterMap fun b => b[c]?) = [] :=
  List.filterMap_eq_nil_iff.mpr fun b hb => List.getElem?_eq_none (h b hb)

/-- One column more (R97). -/
theorem interleave_succ (cols : Nat) (blocks : List (List Byte)) :
    interleave (cols + 1) blocks = interleave cols blocks ++ blocks.filterMap fun b => b[cols]? := by
  simp [interleave, List.range_succ]

/-- The columns that no block is without hold N bytes each (R97). -/
theorem length_interleave_full {cols : Nat} {blocks : List (List Byte)} (h : ∀ b ∈ blocks, cols ≤ b.length) :
    (interleave cols blocks).length = cols * blocks.length := by
  induction cols with
  | zero => simp [interleave]
  | succ cols ih =>
    rw [interleave_succ, List.length_append, ih fun b hb => (cols.le_succ).trans (h b hb), filterMap_column h,
      List.length_map, Nat.succ_mul]

/-- A number of so many whole rounds of N and a rest below N, taken apart. -/
theorem rounds_mod_div (cols : Nat) {N r : Nat} (hr : r < N) : (cols * N + r) % N = r ∧ (cols * N + r) / N = cols := by
  rw [Nat.mul_add_mod_self_right, Nat.mod_eq_of_lt hr, Nat.mul_comm, Nat.mul_add_div (by omega), Nat.div_eq_of_lt hr]
  exact ⟨rfl, rfl⟩

/-- Entry n of the columns that no block is without: column n / N of block n mod N (R97). -/
theorem getD_interleave_full {cols : Nat} {blocks : List (List Byte)} (h : ∀ b ∈ blocks, cols ≤ b.length)
    {n : Nat} (hn : n < cols * blocks.length) :
    (interleave cols blocks).getD n 0 = (blocks.getD (n % blocks.length) []).getD (n / blocks.length) 0 := by
  induction cols with
  | zero => simp at hn
  | succ cols ih =>
    have h' : ∀ b ∈ blocks, cols ≤ b.length := fun b hb => (cols.le_succ).trans (h b hb)
    rw [interleave_succ]
    by_cases hlt : n < cols * blocks.length
    · rw [List.getD_append _ _ _ _ (by rw [length_interleave_full h']; exact hlt), ih h' hlt]
    · obtain ⟨r, rfl⟩ := Nat.exists_eq_add_of_le (not_lt.mp hlt)
      have hr : r < blocks.length := by rw [Nat.succ_mul] at hn; omega
      obtain ⟨hmod, hdiv⟩ := rounds_mod_div cols hr
      rw [List.getD_append_right _ _ _ _ (by rw [length_interleave_full h']; omega), length_interleave_full h',
        Nat.add_sub_cancel_left, filterMap_column h, hmod, hdiv, List.getD_eq_getElem _ _ (by simpa using hr),
        List.getD_eq_getElem _ _ hr, List.getElem_map]

/-- A round-robin over blocks of `cols` bytes and then blocks of one byte more (R97): the last column has the longer
blocks alone. -/
theorem getD_interleave_append {cols : Nat} {A B : List (List Byte)} (hA : ∀ b ∈ A, b.length = cols)
    (hB : ∀ b ∈ B, b.length = cols + 1) {n : Nat} (hn : n < cols * (A ++ B).length + B.length) :
    (interleave (cols + 1) (A ++ B)).getD n 0 =
      ((A ++ B).getD (n % (A ++ B).length + if n / (A ++ B).length = cols then A.length else 0) []).getD
        (n / (A ++ B).length) 0 := by
  have hfull : ∀ b ∈ A ++ B, cols ≤ b.length := by
    intro b hb
    rcases List.mem_append.mp hb with hb | hb
    · exact (hA b hb).ge
    · exact (hB b hb).ge.trans' (by omega)
  have hlast : ((A ++ B).filterMap fun b => b[cols]?) = B.map fun b => b.getD cols 0 := by
    rw [List.filterMap_append, filterMap_column_none fun b hb => (hA b hb).le, List.nil_append,
      filterMap_column fun b hb => by rw [hB b hb]; omega]
  have hlen := length_interleave_full hfull
  rw [interleave_succ, hlast]
  by_cases hlt : n < cols * (A ++ B).length
  · have hcol : n / (A ++ B).length ≠ cols := (Nat.div_lt_of_lt_mul (by rwa [Nat.mul_comm])).ne
    rw [List.getD_append _ _ _ _ (by omega), getD_interleave_full hfull hlt, if_neg hcol, Nat.add_zero]
  · obtain ⟨r, rfl⟩ := Nat.exists_eq_add_of_le (not_lt.mp hlt)
    have hr : r < B.length := by omega
    have hrN : r < (A ++ B).length := by simp only [List.length_append]; omega
    obtain ⟨hmod, hdiv⟩ := rounds_mod_div cols hrN
    rw [List.getD_append_right _ _ _ _ (by omega), hlen, Nat.add_sub_cancel_left, hmod, hdiv, if_pos rfl,
      List.getD_append_right _ _ _ _ (by omega), Nat.add_sub_cancel, List.getD_eq_getElem _ _ (by simpa using hr),
      List.getD_eq_getElem _ _ hr, List.getElem_map]

/-! ### The blocks -/

/-- Block b is the piece of its length at its start (R96). -/
theorem getD_splitBlocks (k : BlockSpec) (data : List Byte) {b : Nat} (hb : b < k.blocks) :
    (splitBlocks k data).getD b [] = (data.drop (blockStart k b)).take (blockLength k b) := by
  rw [BlockSpec.blocks] at hb
  unfold splitBlocks blockStart blockLength
  by_cases h : b < k.b1
  · rw [List.getD_append _ _ _ _ (by simpa using h), List.getD_eq_getElem _ _ (by simpa using h)]
    simp [h]
  · rw [List.getD_append_right _ _ _ _ (by simpa using h), List.getD_eq_getElem _ _ (by simp; omega)]
    simp [h]

/-- Every block lies inside the data (R92, R96). -/
theorem blockStart_add_blockLength_le (k : BlockSpec) {b : Nat} (hb : b < k.blocks) :
    blockStart k b + blockLength k b ≤ k.data := by
  rw [BlockSpec.blocks] at hb
  unfold blockStart blockLength BlockSpec.data
  split
  · have : (b + 1) * k.dl1 ≤ k.b1 * k.dl1 := Nat.mul_le_mul_right _ (by omega)
    rw [Nat.succ_mul] at this
    omega
  · have : (b - k.b1 + 1) * (k.dl1 + 1) ≤ k.b2 * (k.dl1 + 1) := Nat.mul_le_mul_right _ (by omega)
    rw [Nat.succ_mul] at this
    omega

/-- A piece of a block of memory is a block of memory. -/
theorem take_drop_readBlock (m : Memory) {base len start n : Nat} (h : start + n ≤ len) :
    ((m.readBlock base len).drop start).take n = m.readBlock (base + start) n := by
  refine List.ext_getElem (by simp; omega) fun j _ _ => ?_
  simp [Nat.add_assoc]

/-- Block b of the data in memory (R96). -/
theorem getD_splitBlocks_readBlock (m : Memory) (base : Nat) (k : BlockSpec) {b : Nat} (hb : b < k.blocks) :
    (splitBlocks k (m.readBlock base k.data)).getD b [] = m.readBlock (base + blockStart k b) (blockLength k b) := by
  rw [getD_splitBlocks k _ hb, take_drop_readBlock m (blockStart_add_blockLength_le k hb)]

/-- The data bytes are DL1 whole columns and the last one, of the longer blocks (R92). -/
theorem blockSpec_data_eq (k : BlockSpec) : k.data = k.dl1 * k.blocks + k.b2 := by
  simp only [BlockSpec.data, BlockSpec.blocks]
  ring

/-- The closed form of R97 names a block and one of its bytes. -/
theorem interleavedBlock_bounds {k : BlockSpec} {n : Nat} (hn : n < k.data) :
    interleavedBlock k n < k.blocks ∧ n / k.blocks < blockLength k (interleavedBlock k n) := by
  have hblocks : k.blocks = k.b1 + k.b2 := rfl
  have hpos : 0 < k.blocks := by
    by_contra h
    have hzero : k.blocks = 0 := by omega
    rw [blockSpec_data_eq, hzero] at hn
    omega
  rw [blockSpec_data_eq] at hn
  have hcol : n / k.blocks ≤ k.dl1 := by
    refine Nat.le_of_lt_succ (Nat.div_lt_of_lt_mul ?_)
    rw [Nat.mul_succ, Nat.mul_comm]
    omega
  have hrow := Nat.mod_lt n hpos
  unfold interleavedBlock
  split
  case isTrue hlast =>
    have hdiv := Nat.div_add_mod n k.blocks
    rw [hlast, Nat.mul_comm] at hdiv
    rw [blockLength, if_neg (by omega)]
    omega
  case isFalse hlast =>
    unfold blockLength
    split <;> omega

/-- The blocks are B1 of DL1 bytes and then B2 of one byte more (R96). -/
theorem splitBlocks_parts {k : BlockSpec} {data : List Byte} (h : data.length = k.data) :
    ∃ A B, splitBlocks k data = A ++ B ∧ A.length = k.b1 ∧ B.length = k.b2 ∧ (∀ b ∈ A, b.length = k.dl1) ∧
      ∀ b ∈ B, b.length = k.dl1 + 1 := by
  obtain ⟨A, B, hAB, hA, hB⟩ := List.map_eq_append_iff.mp (map_length_splitBlocks h)
  obtain ⟨hlenA, hA⟩ := List.eq_replicate_iff.mp hA
  obtain ⟨hlenB, hB⟩ := List.eq_replicate_iff.mp hB
  rw [List.length_map] at hlenA hlenB
  exact ⟨A, B, hAB, hlenA, hlenB, fun b hb => hA _ (List.mem_map_of_mem hb),
    fun b hb => hB _ (List.mem_map_of_mem hb)⟩

section Stream

variable {k : BlockSpec} {data : List Byte} (h : data.length = k.data)
include h

theorem length_splitBlocks : (splitBlocks k data).length = k.blocks := by
  rw [← List.length_map (f := List.length), map_length_splitBlocks h]
  simp [BlockSpec.blocks]

/-- The data interleave is all data bytes (R97). -/
theorem length_dataInterleave : (interleave (k.dl1 + 1) (splitBlocks k data)).length = k.data := by
  rw [length_interleave, map_length_splitBlocks h]
  · simp [BlockSpec.data]
  · intro b hb
    have := map_length_splitBlocks h ▸ List.mem_map_of_mem (f := List.length) hb
    simp only [List.mem_append, List.mem_replicate] at this
    omega

/-- Byte n of the data interleave, in closed form (R97). -/
theorem getD_dataInterleave {n : Nat} (hn : n < k.data) : (interleave (k.dl1 + 1) (splitBlocks k data)).getD n 0 =
    ((splitBlocks k data).getD (interleavedBlock k n) []).getD (n / k.blocks) 0 := by
  have hblocks := length_splitBlocks h
  obtain ⟨A, B, hAB, hlenA, hlenB, hA, hB⟩ := splitBlocks_parts h
  rw [hAB] at hblocks ⊢
  rw [getD_interleave_append hA hB (by rwa [hblocks, hlenB, ← blockSpec_data_eq]), hblocks, hlenA]
  rfl

/-- Byte n of the parity interleave, in closed form (R97). -/
theorem getD_parityInterleave (hecc : 0 < k.ecc) {n : Nat} (hn : n < k.blocks * k.ecc) :
    (interleave k.ecc ((splitBlocks k data).map (qrParity k.ecc))).getD n 0 =
      (qrParity k.ecc ((splitBlocks k data).getD (n % k.blocks) [])).getD (n / k.blocks) 0 := by
  have hblocks : ((splitBlocks k data).map (qrParity k.ecc)).length = k.blocks := by
    rw [List.length_map, length_splitBlocks h]
  have hlen : ∀ b ∈ (splitBlocks k data).map (qrParity k.ecc), k.ecc ≤ b.length := by
    intro b hb
    obtain ⟨block, -, rfl⟩ := List.mem_map.mp hb
    exact (length_qrParity _ _ hecc).ge
  have hmod : n % k.blocks < k.blocks := Nat.mod_lt _ (Nat.pos_of_mul_pos_right (n.zero_le.trans_lt hn))
  have hentry : ((splitBlocks k data).map (qrParity k.ecc)).getD (n % k.blocks) [] =
      qrParity k.ecc ((splitBlocks k data).getD (n % k.blocks) []) := by
    rw [List.getD_eq_getElem _ _ (hblocks.symm ▸ hmod), List.getElem_map,
      List.getD_eq_getElem _ _ ((length_splitBlocks h).symm ▸ hmod)]
  rw [getD_interleave_full hlen (by rwa [hblocks, Nat.mul_comm]), hblocks, hentry]

end Stream

/-! ### The command -/

/-- Settles O24: the codeword stream is the data interleave and then the parity interleave, each in closed form. -/
theorem blockEncodeWritesTheInterleave : Obligations.BlockEncodeWritesTheInterleave := by
  refine ⟨qrTables_eq, qrTables_entries, ?_⟩
  intro s g hg hlen k
  have hnone : reportedError .blockEncode s = none := by
    simp only [reportedError, hg]
    exact if_pos hlen
  have hresult : resultOf .blockEncode s = complete (blockEncodeBody g (issue .blockEncode 0 s)) := by
    rw [resultOf_of_no_error hnone, commandBody, issue_geometry, hg]
    rfl
  obtain ⟨hecc, -, -, -, -, htotal⟩ : BlockFacts g k := blockFacts hg s.regs.level
  have hdata : (s.mem.readBuf .dataBuf 0 k.data).length = k.data := length_readBuf _ _ _ _
  have hstream : (codewordStream k (s.mem.readBuf .dataBuf 0 k.data)).length = k.data + k.blocks * k.ecc :=
    length_codewordStream hdata hecc
  have hread : ∀ n < k.data + k.blocks * k.ecc, (resultOf .blockEncode s).mem.read (0x02000 + n) =
      (codewordStream k (s.mem.readBuf .dataBuf 0 k.data)).getD n 0 := fun n hn => by
    rw [hresult]
    exact read_storeBuf_same s.mem .cwBuf _ (hstream.symm ▸ hn)
  have hblock : ∀ b < k.blocks, (splitBlocks k (s.mem.readBuf .dataBuf 0 k.data)).getD b [] =
      s.mem.readBlock (0x01000 + blockStart k b) (blockLength k b) :=
    fun b hb => getD_splitBlocks_readBlock s.mem 0x01000 k hb
  obtain ⟨hidle, hports⟩ := resultOf_ports .blockEncode s
  refine ⟨_, exec_eq _ _, fun n hn => ?_, fun n hn => ?_, resultOf_sameBytesOutside fun a ha => ?_, ?_, hidle,
    hports⟩
  · obtain ⟨hb, hj⟩ := interleavedBlock_bounds hn
    rw [hread n (by omega), codewordStream, List.getD_append _ _ _ _ (by rwa [length_dataInterleave hdata]),
      getD_dataInterleave hdata hn, hblock _ hb, List.getD_eq_getElem _ _ (by simpa using hj), getElem_readBlock]
  · have hb : n % k.blocks < k.blocks := Nat.mod_lt _ (Nat.pos_of_mul_pos_right (n.zero_le.trans_lt hn))
    rw [Nat.add_assoc, hread _ (by omega), codewordStream,
      List.getD_append_right _ _ _ _ (by rw [length_dataInterleave hdata]; omega), length_dataInterleave hdata,
      Nat.add_sub_cancel_left, getD_parityInterleave hdata hecc hn, hblock _ hb, qrParity_eq_divisionRemainder]
    rfl
  · simp only [mayWriteByte, hg]
    exact inBuf_eq_false ha
  · rw [hresult]
    rfl

end Sys2Proof.Machine
end

section
/-! PROOF. The identities of the block table (41_blocks.md R92, R93) and LengthMismatch (R95). -/

namespace Sys2Proof.Machine

/-! ### The block table -/

/-- What the rows must be checked for beyond `BlockFacts`: a block of the shorter length is there in each, and fits one
RS code of length 255 (R93). -/
theorem shortBlock_table : ∀ v ∈ List.range' 1 40, ∀ g ∈ geometry v,
    ∀ k ∈ [g.blocks.l, g.blocks.m, g.blocks.q, g.blocks.h], 0 < k.b1 ∧ k.dl1 + k.ecc ≤ 255 := by decide

/-- The shorter block of a legal version at a level. -/
theorem shortBlock {v : Nat} {g : Geometry} (h : geometry v = some g) (lvl : Level) :
    0 < (g.blocks.at lvl).b1 ∧ (g.blocks.at lvl).dl1 + (g.blocks.at lvl).ecc ≤ 255 :=
  shortBlock_table v (geometry_version h).1 g h _ (by cases lvl <;> simp [BlockRow.at])

/-- N blocks of DL1 + ECC codewords, and one more byte in each of the B2 longer ones, are the data and the parity
bytes (R92, R93). -/
theorem blockSpec_data_add_parity (k : BlockSpec) :
    k.data + k.blocks * k.ecc = k.b2 + k.blocks * (k.dl1 + k.ecc) := by
  rw [blockSpec_data_eq]
  ring

/-- Division of the total by the number of blocks: with fewer longer blocks than blocks, B2 is the remainder and
DL1 + ECC is the quotient (R93). -/
theorem blockSpec_fields_of_total {k : BlockSpec} {total : Nat} (hb1 : 0 < k.b1)
    (htotal : total = k.data + k.blocks * k.ecc) :
    k.b2 = total % k.blocks ∧ k.b1 = k.blocks - k.b2 ∧ k.dl1 = total / k.blocks - k.ecc ∧ k.b2 < k.blocks := by
  have hblocks : k.blocks = k.b1 + k.b2 := rfl
  have hlt : k.b2 < k.blocks := by omega
  obtain ⟨hquot, hrem⟩ : total / k.blocks = k.dl1 + k.ecc ∧ total % k.blocks = k.b2 :=
    (Nat.div_mod_unique (by omega)).mpr ⟨by rw [htotal, blockSpec_data_add_parity], hlt⟩
  exact ⟨hrem.symm, by omega, by omega, hlt⟩

/-- Settles O21: each row adds up to its version's total and has a shorter block, so the total determines its fields. -/
theorem blockTableIdentities : Obligations.BlockTableIdentities := by
  intro v hv lvl _
  obtain ⟨g, hg⟩ := Option.isSome_iff_exists.mp (geometry_isSome_table v hv)
  obtain ⟨-, -, -, -, -, htotal⟩ := blockFacts hg lvl
  obtain ⟨hb1, hlen⟩ := shortBlock hg lvl
  obtain ⟨hb2, hb1', hdl1, hlt⟩ := blockSpec_fields_of_total hb1 htotal
  simp only [hg]
  exact ⟨htotal.symm, hb2, hb1', hdl1, hlt, hlen⟩

/-! ### LengthMismatch -/

/-- A command other than RS_INIT that reports an error changes STATUS alone, and leaves the engine IDLE (R138). -/
theorem exec_of_reportedError {i : Instr} {s : State} {e : CmdError} (h : reportedError i s = some e)
    (hi : i ≠ .rsInit) : exec i s = .next { s with
      engine := .idle, regs := { s.regs with status := statusAfter i.opcode s.regs.status.ovr (some e) } } := by
  rw [exec_eq, resultOf_eq, h]
  simp only [finish, failingBody, if_neg hi]
  rfl

/-- Settles O10: of a legal version, the length is the first check of both commands. -/
theorem wrongDataLengthRaisesLengthMismatch : Obligations.WrongDataLengthRaisesLengthMismatch := by
  intro s g hg hlen
  have hblock : reportedError .blockEncode s = some .lengthMismatch := by
    simp only [reportedError, hg, if_neg hlen]
  have hsymbol : reportedError .encodeSymbol s = some .lengthMismatch := by
    simp only [reportedError, hg, if_neg hlen]
  exact ⟨exec_of_reportedError hblock (by decide), exec_of_reportedError hsymbol (by decide)⟩

end Sys2Proof.Machine
end

section
/-! PROOF. The version and format words of the tables are BCH words (42_frame.md R105; 43_mask.md R114). -/

namespace Sys2Proof.Machine

/-- The format words of the 32 pairs of level and mask are those that R114 computes. -/
theorem formatWord_eq_computed (lvl : Level) (m : BitVec 3) : formatWord lvl m = formatWordComputed lvl m := by
  revert m
  cases lvl <;> decide

/-- Settles O22: the version words by the facts of the version table, the format words by their 32 cases. -/
theorem informationWordsAreBchWords : Obligations.InformationWordsAreBchWords := by
  refine ⟨fun v hv => ?_, fun lvl _ m => formatWord_eq_computed lvl m⟩
  have hv' := List.mem_range'_1.mp hv
  obtain ⟨g, hg⟩ := Option.isSome_iff_exists.mp (geometry_isSome_table v (List.mem_range'_1.mpr (by omega)))
  obtain ⟨-, -, -, hvword⟩ := rowFacts hg
  rw [(geometry_version hg).2, if_pos hv'.1] at hvword
  rw [hg, Option.map_some, hvword]

end Sys2Proof.Machine
end

section
/-! PROOF. The frame commands (42_frame.md R99, R107, R112): the state that both leave, and FRAME_INIT. -/

namespace Sys2Proof.Machine

section FrameCommands

variable {s : State} {g : Geometry} (hg : s.regs.geometry = some g)
include hg

theorem resultOf_frameInit : resultOf .frameInit s = complete (frameInitBody g (issue .frameInit 0 s)) := by
  have hnone : reportedError .frameInit s = none := by simp [reportedError, hg]
  rw [resultOf_of_no_error hnone, commandBody, issue_geometry, hg]
  rfl

theorem resultOf_framePlace : resultOf .framePlace s = complete (framePlaceBody g (issue .framePlace 0 s)) := by
  have hnone : reportedError .framePlace s = none := by simp [reportedError, hg]
  rw [resultOf_of_no_error hnone, commandBody, issue_geometry, hg]
  rfl

/-- The bytes of GRID past the symbol's cells, and of every other memory, are in neither command's list (R72). -/
theorem frameCommand_sameBytesOutside {i : Instr} (hi : i = .frameInit ∨ i = .framePlace) :
    SameBytesOutside 0x08000 (g.width * g.width) s (resultOf i s) := by
  refine resultOf_sameBytesOutside fun a ha => ?_
  have hout : inBuf .grid g.modules a = false := inBuf_eq_false ha
  rcases hi with rfl | rfl <;> simp only [mayWriteByte, hg, placedByte, hout, Bool.false_and]

end FrameCommands

/-- Settles O26: the skeleton is stored row-major, from the start of GRID on. -/
theorem frameInitWritesTheSkeleton : Obligations.FrameInitWritesTheSkeleton := by
  intro s g hg
  have hresult := resultOf_frameInit hg
  obtain ⟨hidle, hports⟩ := resultOf_ports .frameInit s
  refine ⟨_, exec_eq _ _, fun x y hx hy => ?_, frameCommand_sameBytesOutside hg (.inl rfl), ?_, hidle, hports⟩
  · have hk : y * g.width + x < (skeleton g).length := (length_skeleton g).symm ▸ cellIndex_lt hx hy
    rw [hresult, Nat.add_assoc]
    refine (read_storeBuf_same s.mem .grid (skeleton g) hk).trans ?_
    rw [List.getD_eq_getElem _ _ hk]
    exact getElem_gridOf g.width (skeletonCell g) x y hx _
  · rw [hresult]
    rfl

end Sys2Proof.Machine
end

section
/-! PROOF. The traversal of the grid (42_frame.md R109): its closed form, and which cells it visits. -/

namespace Sys2Proof.Machine

/-! ### Column pairs -/

/-- The right column of the p-th pair (R109), as `visitedCell` gives it. -/
def rightColumn (w p : Nat) : Nat := if 6 < w - 1 - 2 * p then w - 1 - 2 * p else w - 2 - 2 * p

/-- One pair, and the pairs from two columns further left on (R109). -/
theorem rightColumns_succ {fuel right : Nat} (h : right ≠ 0) : rightColumns (fuel + 1) right =
    (if right = 6 then 5 else right) :: rightColumns fuel ((if right = 6 then 5 else right) - 2) := if_neg h

/-- The pairs from `right` on when n of them are left: above column 6 the right columns are even, below it odd (R109). -/
theorem rightColumns_eq_map {fuel right n : Nat} (hfuel : n ≤ fuel)
    (h : (right = 2 * n ∧ 3 ≤ n) ∨ (right = 2 * n - 1 ∧ n ≤ 3)) :
    rightColumns fuel right = (List.range n).map (rightColumn (2 * n + 1)) := by
  induction n generalizing fuel right with
  | zero =>
    obtain rfl : right = 0 := by omega
    cases fuel <;> rfl
  | succ n ih =>
    obtain ⟨fuel, rfl⟩ := Nat.exists_eq_add_of_le' hfuel
    have hhead : (if right = 6 then 5 else right) = rightColumn (2 * (n + 1) + 1) 0 := by
      unfold rightColumn
      split <;> split <;> omega
    have htail : ∀ p, rightColumn (2 * n + 1) p = rightColumn (2 * (n + 1) + 1) (p + 1) := by
      intro p
      unfold rightColumn
      split <;> split <;> omega
    rw [← Nat.add_assoc, rightColumns_succ (by omega), ih (by omega) (by split <;> omega), hhead,
      List.range_succ_eq_map, List.map_cons, List.map_map]
    exact congrArg _ (List.map_congr_left fun p _ => htail p)

/-- The columns of a grid of odd width, 7 or more, in pairs (R109). -/
theorem rightColumns_of_odd {w : Nat} (hw : w % 2 = 1) (h7 : 7 ≤ w) :
    rightColumns w (w - 1) = (List.range ((w - 1) / 2)).map (rightColumn w) := by
  obtain ⟨n, rfl⟩ : ∃ n, w = 2 * n + 1 := ⟨w / 2, by omega⟩
  rw [rightColumns_eq_map (n := n) (by omega) (by omega)]
  congr 2
  omega

/-- The direction test of R109 looks at bit 1 of `right + 1`. -/
theorem pairUpward_iff (right : Nat) : pairUpward right = true ↔ (right + 1) % 4 < 2 := by
  have hbit := Nat.and_two_pow (right + 1) 1
  rw [pairUpward, beq_iff_eq, show (2 : Nat) = 2 ^ 1 from rfl, hbit, Nat.testBit_eq_decide_div_mod_eq]
  by_cases h : (right + 1) / 2 ^ 1 % 2 = 1 <;> simp only [h, decide_true, decide_false] <;> simp <;> omega

/-- The pairs go upward and downward in turn (R109), for a width of the form 4m + 1. -/
theorem pairUpward_rightColumn {w p : Nat} (hw : w % 4 = 1) (hp : p < (w - 1) / 2) :
    pairUpward (rightColumn w p) = true ↔ p % 2 = 0 := by
  rw [pairUpward_iff, rightColumn]
  split <;> omega

/-! ### The closed form -/

/-- A map over `m` rounds of `c` numbers, round by round. -/
theorem map_range_mul {α : Type} (f : Nat → α) (m c : Nat) :
    (List.range (m * c)).map f = (List.range m).flatMap fun i => (List.range c).map fun j => f (i * c + j) := by
  induction m with
  | zero => simp
  | succ m ih =>
    rw [Nat.succ_mul, List.range_add, List.map_append, ih, List.range_succ, List.flatMap_append, List.map_map]
    simp [Function.comp_def]

/-- The cell of pair p in row t of its direction and column b of its two (R109). -/
theorem visitedCell_of_pair {w p t b : Nat} (ht : t < w) (hb : b < 2) :
    visitedCell w (p * (2 * w) + (t * 2 + b)) = (rightColumn w p - b, if p % 2 = 0 then w - 1 - t else t) := by
  obtain ⟨hmod, hdiv⟩ := rounds_mod_div p (N := 2 * w) (r := t * 2 + b) (by omega)
  have hrow : (t * 2 + b) / 2 = t := by omega
  have hcol : (p * (2 * w) + (t * 2 + b)) % 2 = b := by
    rw [Nat.mul_left_comm]
    omega
  simp only [visitedCell, hmod, hdiv, hrow, hcol, rightColumn]

/-- The cells of a pair, in closed form (R109). -/
theorem pairCells_rightColumn {w p : Nat} (hw : w % 4 = 1) (hp : p < (w - 1) / 2) :
    pairCells w (rightColumn w p) = (List.range (2 * w)).map fun j => visitedCell w (p * (2 * w) + j) := by
  rw [Nat.mul_comm 2 w, map_range_mul, pairCells]
  refine List.flatMap_congr fun t ht => ?_
  have ht' := List.mem_range.mp ht
  have hfirst := visitedCell_of_pair (p := p) ht' (b := 0) (by omega)
  have hsecond := visitedCell_of_pair (p := p) ht' (b := 1) (by omega)
  have hrow : (if pairUpward (rightColumn w p) then w - 1 - t else t) = if p % 2 = 0 then w - 1 - t else t := by
    simp only [pairUpward_rightColumn hw hp]
  rw [Nat.mul_comm w 2, hrow]
  exact (congrArg₂ (fun a b => [a, b]) hfirst hsecond).symm

/-- The traversal, in closed form (R109). -/
theorem traversal_eq_map {w : Nat} (hw : w % 4 = 1) (h7 : 7 ≤ w) :
    traversal w = (List.range (w * (w - 1))).map (visitedCell w) := by
  have hlen : w * (w - 1) = (w - 1) / 2 * (2 * w) := by
    rw [← Nat.mul_assoc, Nat.div_mul_cancel (by omega), Nat.mul_comm]
  rw [hlen, map_range_mul, traversal, rightColumns_of_odd (by omega) h7, List.flatMap_map]
  exact List.flatMap_congr fun p hp => pairCells_rightColumn hw (List.mem_range.mp hp)

/-! ### The cells visited -/

/-- Every column but 6 is in a pair (R109). -/
theorem exists_rightColumn {w x : Nat} (hw : w % 2 = 1) (h7 : 7 ≤ w) (hx : x < w) (h6 : x ≠ 6) :
    ∃ p < (w - 1) / 2, x = rightColumn w p ∨ x = rightColumn w p - 1 := by
  unfold rightColumn
  rcases Nat.lt_or_gt_of_ne h6 with h | h
  · exact ⟨(w - 1) / 2 - 1 - x / 2, by omega, by split <;> omega⟩
  · exact ⟨(w - 1 - x) / 2, by omega, by split <;> omega⟩

/-- A pair has every row in both its columns (R109). -/
theorem mem_pairCells {w right x y : Nat} (hcol : x = right ∨ x = right - 1) (hy : y < w) :
    (x, y) ∈ pairCells w right := by
  refine List.mem_flatMap.mpr ⟨if pairUpward right then w - 1 - y else y, List.mem_range.mpr (by split <;> omega), ?_⟩
  have hrow : (if pairUpward right then w - 1 - (if pairUpward right then w - 1 - y else y)
      else if pairUpward right then w - 1 - y else y) = y := by
    split <;> omega
  simpa only [hrow, List.mem_pair, Prod.mk.injEq, and_true] using hcol

/-- The traversal visits exactly the cells of the grid outside column 6 (R109). -/
theorem mem_traversal_iff {w : Nat} (hw : w % 2 = 1) (h7 : 7 ≤ w) (x y : Nat) :
    (x, y) ∈ traversal w ↔ x < w ∧ y < w ∧ x ≠ 6 := by
  refine ⟨fun h => mem_traversal h hw, fun ⟨hx, hy, h6⟩ => ?_⟩
  obtain ⟨p, hp, hcol⟩ := exists_rightColumn hw h7 hx h6
  rw [traversal, rightColumns_of_odd hw h7]
  exact List.mem_flatMap.mpr ⟨_, List.mem_map_of_mem (List.mem_range.mpr hp), mem_pairCells hcol hy⟩

/-- No cell is visited twice: there are as many visits as cells to visit. -/
theorem nodup_traversal {w : Nat} (hw : w % 4 = 1) (h7 : 7 ≤ w) : (traversal w).Nodup := by
  have hcells : (traversal w).toFinset = (Finset.range w).erase 6 ×ˢ Finset.range w := by
    ext ⟨x, y⟩
    simp only [List.mem_toFinset, mem_traversal_iff (w := w) (by omega) h7, Finset.mem_product, Finset.mem_erase,
      Finset.mem_range]
    tauto
  refine Multiset.toFinset_card_eq_card_iff_nodup (m := (traversal w : Multiset (Nat × Nat))).mp ?_
  change (traversal w).toFinset.card = (traversal w).length
  rw [hcells, Finset.card_product, Finset.card_erase_of_mem (Finset.mem_range.mpr h7), Finset.card_range,
    traversal_eq_map hw h7, List.length_map, List.length_range, Nat.mul_comm]

/-- The widths of R90. -/
theorem width_mod_four (g : Geometry) : g.width % 4 = 1 := by
  simp only [Geometry.width, width]
  omega

/-- Settles O29: the order by the closed form, the set of visited cells by the column pairs. -/
theorem traversalVisitsEachCellOnce : Obligations.TraversalVisitsEachCellOnce := by
  intro v g _
  have hw := width_mod_four g
  have h21 := width_ge g
  have hmap := traversal_eq_map hw (by omega)
  have hpos : 0 < g.width * (g.width - 1) := Nat.mul_pos (by omega) (by omega)
  refine ⟨by rw [hmap]; simp, fun k hk => by rw [hmap]; simp [hk], nodup_traversal hw (by omega), ?_,
    mem_traversal_iff (by omega) (by omega)⟩
  rw [hmap, List.head?_map, List.head?_range]
  simp [visitedCell, hpos.ne']
  omega

end Sys2Proof.Machine
end

section
/-! PROOF. FRAME_PLACE (42_frame.md R108, R110, R112): the bit stream, and which bit each free cell takes. -/

namespace Sys2Proof.Machine

/-! ### The bit stream -/

/-- The bits of a block of memory are the bits of its bytes in turn, most significant first (R108). -/
theorem bitStream_readBlock (m : Memory) (base n : Nat) : bitStream (m.readBlock base n) =
    (List.range (n * 8)).map fun i => (m.read (base + i / 8)).getLsbD (7 - i % 8) := by
  rw [map_range_mul, bitStream, Memory.readBlock, List.flatMap_map]
  refine List.flatMap_congr fun b _ => List.map_congr_left fun j hj => ?_
  obtain ⟨hmod, hdiv⟩ := rounds_mod_div b (List.mem_range.mp hj)
  rw [hmod, hdiv]

/-- Bit i of the codewords, light past their end (R108, R110). -/
theorem getD_bitStream (m : Memory) (n i : Nat) : (bitStream (m.readBuf .cwBuf 0 n)).getD i false =
    (decide (i < 8 * n) && (m.read (0x02000 + i / 8)).getLsbD (7 - i % 8)) := by
  rw [Memory.readBuf, bitStream_readBlock]
  by_cases hi : i < 8 * n
  · rw [List.getD_eq_getElem _ _ (by simpa [Nat.mul_comm] using hi)]
    simp [hi, regionBase]
  · rw [List.getD_eq_default _ _ (by simpa [Nat.mul_comm] using hi)]
    simp [hi]

/-! ### Placement -/

/-- The i-th free index of a traversal without repeats takes bit i (R110): placement sets an index once, and frees or
fixes no other. -/
theorem getD_placeBits_free {ks : List Nat} {cells : List Byte} (hnodup : ks.Nodup)
    (hlt : ∀ k ∈ ks, k < cells.length) (bits : List Bool) {i k : Nat}
    (h : (ks.filter fun k => !isFixed (cells.getD k 0#8))[i]? = some k) :
    (placeBits ks bits cells).getD k 0#8 = dataCell (bits.getD i false) := by
  induction ks generalizing cells bits i with
  | nil => simp at h
  | cons j ks ih =>
    obtain ⟨hj, hnodup⟩ := List.nodup_cons.mp hnodup
    rw [List.forall_mem_cons] at hlt
    unfold placeBits
    split
    case isTrue hfixed =>
      rw [List.filter_cons_of_neg (by simpa using hfixed)] at h
      exact ih hnodup hlt.2 bits h
    case isFalse hfree =>
      rw [List.filter_cons_of_pos (by simpa using hfree)] at h
      cases i with
      | zero =>
        obtain rfl : j = k := by simpa using h
        rw [getD_placeBits (.inl hj), List.getD_eq_getElem _ _ (by simpa using hlt.1), List.getElem_set_self]
        cases bits <;> rfl
      | succ i =>
        have hsame : ∀ n ∈ ks, (cells.set j (dataCell (bits.headD false))).getD n 0#8 = cells.getD n 0#8 := by
          intro n hn
          have hne : j ≠ n := fun e => hj (e ▸ hn)
          simp [List.getD_eq_getElem?_getD, hne]
        have hfilter := List.filter_congr fun n hn => congrArg (!isFixed ·) (hsame n hn)
        rw [List.getElem?_cons_succ, ← hfilter] at h
        rw [ih hnodup (by simpa using hlt.2) bits.tail h]
        cases bits <;> rfl

/-- Two cells of the grid at one index are one cell (R43). -/
theorem cellIndex_injective {w : Nat} {c d : Nat × Nat} (hc : c.1 < w) (hd : d.1 < w)
    (h : cellIndex w c = cellIndex w d) : c = d := by
  obtain ⟨hmodc, hdivc⟩ := rounds_mod_div c.2 hc
  obtain ⟨hmodd, hdivd⟩ := rounds_mod_div d.2 hd
  unfold cellIndex at h
  rw [h] at hmodc hdivc
  exact Prod.ext (hmodc.symm.trans hmodd) (hdivc.symm.trans hdivd)

/-- The i-th free cell of the traversal takes bit i (R110, R112). -/
theorem getD_placedFrame_free {w : Nat} (hw : w % 4 = 1) (h7 : 7 ≤ w) {cells : List Byte}
    (hlen : cells.length = w * w) (bits : List Bool) {i : Nat} {c : Nat × Nat}
    (h : ((traversal w).filter fun c => !isFixed (cells.getD (cellIndex w c) 0#8))[i]? = some c) :
    (placedFrame w bits cells).getD (cellIndex w c) 0#8 = dataCell (bits.getD i false) := by
  have hmem : ∀ c ∈ traversal w, c.1 < w ∧ c.2 < w := fun c hc =>
    let ⟨hx, hy, _⟩ := mem_traversal hc (by omega)
    ⟨hx, hy⟩
  refine getD_placeBits_free ?_ ?_ bits ?_
  · exact (nodup_traversal hw h7).map_on fun c hc d hd => cellIndex_injective (hmem c hc).1 (hmem d hd).1
  · intro k hk
    obtain ⟨c, hc, rfl⟩ := List.mem_map.mp hk
    rw [hlen]
    exact cellIndex_lt (hmem c hc).1 (hmem c hc).2
  · rw [List.filter_map, List.getElem?_map]
    exact congrArg (Option.map (cellIndex w)) h

/-! ### The command -/

/-- The cells of GRID as FRAME_PLACE reads them (R43). -/
theorem getD_gridCells (m : Memory) (g : Geometry) {k : Nat} (hk : k < g.modules) :
    (m.gridCells g).getD k 0#8 = m.read (0x08000 + k) := by
  rw [List.getD_eq_getElem _ _ (by simpa using hk)]
  exact getElem_readBuf _ _ _ _ _ _

/-- Settles O30: the grid after FRAME_PLACE is the placed frame, which keeps what placement does not visit. -/
theorem framePlaceFillsFreeCellsInOrder : Obligations.FramePlaceFillsFreeCellsInOrder := by
  intro s g hg
  have hresult := resultOf_framePlace hg
  have hw := width_mod_four g
  have h21 := width_ge g
  obtain ⟨hidle, hports⟩ := resultOf_ports .framePlace s
  have hread : ∀ k < g.modules, (resultOf .framePlace s).mem.read (0x08000 + k) =
      (placedFrame g.width (bitStream (s.mem.readBuf .cwBuf 0 g.total)) (s.mem.gridCells g)).getD k 0#8 := by
    intro k hk
    rw [hresult]
    exact read_storeBuf_same s.mem .grid _ (by simpa using hk)
  refine ⟨_, exec_eq _ _, ?_, fun x y hx hy hkeep => ?_, frameCommand_sameBytesOutside hg (.inr rfl), ?_, hidle,
    hports⟩
  · intro free i c hc
    have hmem := mem_traversal (List.mem_of_mem_filter (List.mem_of_getElem? hc)) (by omega)
    have hfree : ((traversal g.width).filter fun c =>
        !isFixed ((s.mem.gridCells g).getD (cellIndex g.width c) 0#8))[i]? = some c := by
      rw [← hc]
      refine congrArg (·[i]?) (List.filter_congr fun d hd => ?_)
      obtain ⟨hx, hy, -⟩ := mem_traversal hd (by omega)
      rw [cellIndex, getD_gridCells _ _ (cellIndex_lt hx hy), Nat.add_assoc]
    rw [Nat.add_assoc, hread _ (cellIndex_lt hmem.1 hmem.2.1)]
    refine (getD_placedFrame_free hw (by omega) (length_gridCells _ _) _ hfree).trans ?_
    rw [getD_bitStream, dataCell]
    simp
  · have hk := cellIndex_lt hx hy
    rw [Nat.add_assoc] at hkeep ⊢
    rw [hread _ hk, ← getD_gridCells _ g hk]
    refine getD_placedFrame (width_odd g) (hkeep.symm.imp (fun h6 => ?_) fun hfixed => ?_)
    · rw [(rounds_mod_div y hx).1, h6]
    · rwa [getD_gridCells _ _ hk]
  · rw [hresult]
    rfl

end Sys2Proof.Machine
end

section
/-! PROOF. The skeleton (42_frame.md R99 to R106): which cells each drawing step sets, and what the fixed patterns hold
after all steps. -/

namespace Sys2Proof.Machine

/-! ### Steps drawn over one another -/

/-- Later steps are drawn over earlier ones (R99). -/
theorem overlay_append (under above : List (Option Bool)) :
    overlay (under ++ above) = (overlay above).or (overlay under) := by
  induction above using List.reverseRecOn with
  | nil => simp [overlay]
  | append_singleton above step ih =>
    rw [← List.append_assoc]
    simp only [overlay, List.foldl_append, List.foldl_cons, List.foldl_nil] at ih ⊢
    rw [ih, Option.or_assoc]

/-- A cell is left unset when no step sets it (R99). -/
theorem overlay_eq_none_iff (steps : List (Option Bool)) : overlay steps = none ↔ ∀ step ∈ steps, step = none := by
  induction steps using List.reverseRecOn with
  | nil => simp [overlay]
  | append_singleton steps step ih =>
    have hlast : overlay [step] = step := by simp [overlay]
    simp [overlay_append, hlast, ih, or_imp, forall_and, and_comm]

/-- Where the steps that set a cell agree, the last one gives what they agree on. -/
theorem overlay_of_agree {steps : List (Option Bool)} {dark : Bool} (h : ∀ b, some b ∈ steps → b = dark) :
    overlay steps = none ∨ overlay steps = some dark := by
  induction steps using List.reverseRecOn with
  | nil => exact .inl rfl
  | append_singleton steps step ih =>
    have hlast : overlay [step] = step := by simp [overlay]
    rw [overlay_append, hlast]
    cases step with
    | none => exact ih fun b hb => h b (by simp [hb])
    | some b => exact .inr (by rw [h b (by simp), Option.some_or])

/-- Of patterns at several centres, the one at the only centre that covers the cell gives its colour. -/
theorem overlay_map_of_unique {centres : List (Nat × Nat)} {step : Nat × Nat → Option Bool} {c : Nat × Nat}
    (hc : c ∈ centres) (h : ∀ d ∈ centres, step d ≠ none → d = c) : overlay (centres.map step) = step c := by
  cases hstep : step c with
  | none =>
    refine (overlay_eq_none_iff _).mpr fun s hs => ?_
    obtain ⟨d, hd, rfl⟩ := List.mem_map.mp hs
    by_contra hne
    exact hne (h d hd hne ▸ hstep)
  | some dark =>
    refine (overlay_of_agree fun b hb => ?_).resolve_left fun hnone => ?_
    · obtain ⟨d, hd, hstep'⟩ := List.mem_map.mp hb
      rw [h d hd (by simp [hstep']), hstep] at hstep'
      exact (Option.some.inj hstep').symm
    · rw [(overlay_eq_none_iff _).mp hnone _ (List.mem_map_of_mem hc)] at hstep
      cases hstep

/-! ### The cells of each step -/

/-- The square of the cells at most n away from a centre (R101, R102). -/
theorem ringDistance_le_iff {x y cx cy n : Nat} :
    ringDistance x y cx cy ≤ n ↔ (cx ≤ x + n ∧ x ≤ cx + n) ∧ cy ≤ y + n ∧ y ≤ cy + n := by
  unfold ringDistance absDiff
  omega

theorem ringDistance_comm (x y cx cy : Nat) : ringDistance x y cx cy = ringDistance y x cy cx := max_comm _ _

theorem ringDistance_eq_absDiff {x y cx cy : Nat} (h : x = cx) : ringDistance x y cx cy = absDiff y cy := by
  unfold ringDistance absDiff
  omega

/-- Along a line through an even centre the rings of an alignment pattern are dark at even index (R102). -/
theorem ringColour_eq {y cy : Nat} (heven : cy % 2 = 0) (h : cy ≤ y + 2 ∧ y ≤ cy + 2) :
    (absDiff y cy == 0 || absDiff y cy == 2) = (y % 2 == 0) := by
  rw [Bool.eq_iff_iff, Bool.or_eq_true, beq_iff_eq, beq_iff_eq, beq_iff_eq, absDiff]
  omega

theorem timingStep_eq_none_iff {x y : Nat} : timingStep x y = none ↔ x ≠ 6 ∧ y ≠ 6 := by
  unfold timingStep
  by_cases hx : x = 6
  · simp [hx]
  · by_cases hy : y = 6 <;> simp [hx, hy]

theorem finderStep_of_le {x y cx cy : Nat} (h : ringDistance x y cx cy ≤ 4) : finderStep x y cx cy =
    some (ringDistance x y cx cy == 0 || ringDistance x y cx cy == 1 || ringDistance x y cx cy == 3) := if_pos h

theorem finderStep_eq_none_iff {x y cx cy : Nat} : finderStep x y cx cy = none ↔ ¬ ringDistance x y cx cy ≤ 4 := by
  simp [finderStep]

theorem alignmentStep_of_le {x y cx cy : Nat} (h : ringDistance x y cx cy ≤ 2) : alignmentStep x y cx cy =
    some (ringDistance x y cx cy == 0 || ringDistance x y cx cy == 2) := if_pos h

theorem alignmentStep_eq_none_iff {x y cx cy : Nat} :
    alignmentStep x y cx cy = none ↔ ¬ ringDistance x y cx cy ≤ 2 := by
  simp [alignmentStep]

/-- The format area, strip by strip (R103). -/
theorem formatArea_iff {w x y : Nat} : formatArea w x y = true ↔
    (x = 8 ∧ (y ≤ 5 ∨ y = 7 ∨ y = 8 ∨ w - 7 ≤ y ∧ y ≤ w - 1)) ∨
      (y = 8 ∧ (x ≤ 5 ∨ x = 7 ∨ w - 8 ≤ x ∧ x ≤ w - 1)) := by
  simp only [formatArea, Bool.or_eq_true, Bool.and_eq_true, beq_iff_eq, decide_eq_true_eq]
  omega

theorem formatStep_eq_none_iff {w x y : Nat} : formatStep w x y = none ↔ ¬ formatArea w x y = true := by
  simp [formatStep]

theorem darkModuleStep_eq_none_iff {w x y : Nat} : darkModuleStep w x y = none ↔ ¬ (x = 8 ∧ y = w - 8) := by
  simp [darkModuleStep]

/-- The version area: a block of 3 columns and 6 rows at the top right, and the transposed one (R106). -/
def InVersionArea (g : Geometry) (x y : Nat) : Prop :=
  7 ≤ g.version ∧ ((g.width - 11 ≤ x ∧ x ≤ g.width - 9 ∧ y ≤ 5) ∨ (g.width - 11 ≤ y ∧ y ≤ g.width - 9 ∧ x ≤ 5))

theorem versionStep_eq_none_iff {g : Geometry} {x y : Nat} : versionStep g x y = none ↔ ¬ InVersionArea g x y := by
  unfold versionStep InVersionArea
  split
  · split
    · simp [*]
    · split
      · simp [*]
      · simp only [true_iff]
        tauto
  · simp [*]

/-- The version area lies between the finders' separators and the middle, from version 7 on (R90, R106). -/
theorem InVersionArea.bounds {g : Geometry} {x y : Nat} (h : InVersionArea g x y) :
    (34 ≤ x ∧ g.width ≤ x + 11 ∧ x + 9 ≤ g.width ∧ y ≤ 5) ∨ (34 ≤ y ∧ g.width ≤ y + 11 ∧ y + 9 ≤ g.width ∧ x ≤ 5) := by
  obtain ⟨hversion, harea⟩ := h
  have hwidth : g.width = 21 + 4 * (g.version - 1) := rfl
  omega

theorem not_inVersionArea {g : Geometry} {x y : Nat} (h : ¬ ((34 ≤ x ∧ g.width ≤ x + 11 ∧ x + 9 ≤ g.width ∧ y ≤ 5) ∨
    (34 ≤ y ∧ g.width ≤ y + 11 ∧ y + 9 ≤ g.width ∧ x ≤ 5))) : ¬ InVersionArea g x y := mt InVersionArea.bounds h

/-! ### The skeleton, part by part -/

/-- The three finders (R101). -/
def finderPart (w x y : Nat) : Option Bool := overlay ((finderCentres w).map fun c => finderStep x y c.1 c.2)

/-- The alignment patterns (R102). -/
def alignmentPart (align : List Nat) (x y : Nat) : Option Bool :=
  overlay ((alignmentCentres align).map fun c => alignmentStep x y c.1 c.2)

/-- The order of R99: each part over the ones after it. -/
theorem overlay_skeletonSteps (g : Geometry) (x y : Nat) : overlay (skeletonSteps g x y) =
    (versionStep g x y).or ((darkModuleStep g.width x y).or ((formatStep g.width x y).or
      ((alignmentPart g.align x y).or ((finderPart g.width x y).or (timingStep x y))))) := by
  have hlast : overlay [formatStep g.width x y, darkModuleStep g.width x y, versionStep g x y] =
      (versionStep g x y).or ((darkModuleStep g.width x y).or (formatStep g.width x y)) := by
    simp [overlay]
  have hfirst : ∀ finders, overlay (timingStep x y :: finders) = (overlay finders).or (timingStep x y) := by
    intro finders
    rw [← List.singleton_append, overlay_append]
    simp [overlay]
  rw [skeletonSteps, overlay_append, overlay_append, hlast, hfirst, ← finderPart, ← alignmentPart]
  simp only [Option.or_assoc]

theorem skeletonCell_of_overlay {g : Geometry} {x y : Nat} {dark : Bool}
    (h : overlay (skeletonSteps g x y) = some dark) : skeletonCell g x y = if dark then 0x81#8 else 0x80#8 := by
  rw [skeletonCell, h]
  rfl

theorem mem_finderCentres {w : Nat} {c : Nat × Nat} : c ∈ finderCentres w ↔
    (c.1 = 3 ∧ c.2 = 3) ∨ (c.1 = w - 4 ∧ c.2 = 3) ∨ (c.1 = 3 ∧ c.2 = w - 4) := by
  simp only [finderCentres, List.mem_cons, List.not_mem_nil, or_false, Prod.ext_iff]

/-- The finders are apart, so the one that covers a cell gives its colour (R90, R101). -/
theorem finderPart_of_le {w x y : Nat} (hw : 21 ≤ w) {c : Nat × Nat} (hc : c ∈ finderCentres w)
    (h : ringDistance x y c.1 c.2 ≤ 4) : finderPart w x y = finderStep x y c.1 c.2 := by
  refine overlay_map_of_unique (step := fun c => finderStep x y c.1 c.2) hc fun d hd hstep => ?_
  have hle : ringDistance x y d.1 d.2 ≤ 4 := not_not.mp (mt finderStep_eq_none_iff.mpr hstep)
  rw [ringDistance_le_iff] at h hle
  rw [mem_finderCentres] at hc hd
  exact Prod.ext (by omega) (by omega)

theorem finderPart_eq_none_iff {w x y : Nat} : finderPart w x y = none ↔
    ¬ ringDistance x y 3 3 ≤ 4 ∧ ¬ ringDistance x y (w - 4) 3 ≤ 4 ∧ ¬ ringDistance x y 3 (w - 4) ≤ 4 := by
  simp only [finderPart, finderCentres, overlay_eq_none_iff, List.map_cons, List.map_nil, List.forall_mem_cons,
    finderStep_eq_none_iff, List.not_mem_nil, false_imp_iff, implies_true, and_true]

theorem alignmentPart_eq_none_iff {align : List Nat} {x y : Nat} : alignmentPart align x y = none ↔
    ∀ c ∈ alignmentCentres align, ¬ ringDistance x y c.1 c.2 ≤ 2 := by
  simp only [alignmentPart, overlay_eq_none_iff, List.forall_mem_map, alignmentStep_eq_none_iff]

/-- Where neither the information areas nor the dark module are, the patterns decide (R99). -/
theorem skeletonCell_of_patterns {g : Geometry} {x y : Nat} {dark : Bool} (hversion : ¬ InVersionArea g x y)
    (hmodule : ¬ (x = 8 ∧ y = g.width - 8)) (hformat : ¬ formatArea g.width x y = true)
    (h : (alignmentPart g.align x y).or ((finderPart g.width x y).or (timingStep x y)) = some dark) :
    skeletonCell g x y = if dark then 0x81#8 else 0x80#8 := by
  apply skeletonCell_of_overlay
  rw [overlay_skeletonSteps, versionStep_eq_none_iff.mpr hversion, darkModuleStep_eq_none_iff.mpr hmodule,
    formatStep_eq_none_iff.mpr hformat, h]
  rfl

/-! ### The alignment coordinates -/

/-- What the alignment coordinates of a row must be checked for (R91, R102): they are even and at least 5 apart, from 6
to `w - 7`, and the ones between keep 16 cells from either edge. -/
abbrev AlignFacts (g : Geometry) : Prop :=
  ∀ i < g.align.length, g.align.getD i 0 % 2 = 0 ∧
    (i = 0 ∧ g.align.getD i 0 = 6 ∨ i ≠ 0 ∧ 16 ≤ g.align.getD i 0) ∧
    (i = g.align.length - 1 ∧ g.align.getD i 0 + 7 = g.width ∨
      i ≠ g.align.length - 1 ∧ g.align.getD i 0 + 17 ≤ g.width) ∧
    ∀ j < i, g.align.getD j 0 + 5 ≤ g.align.getD i 0

theorem alignFacts_table : ∀ v ∈ List.range' 1 40, ∀ g ∈ geometry v, AlignFacts g := by decide

theorem alignFacts {v : Nat} {g : Geometry} (h : geometry v = some g) : AlignFacts g :=
  alignFacts_table v (geometry_version h).1 g h

/-- Where an alignment pattern can stand (R102): on even coordinates, each on the line of the finders' inner edges or
well inside, and not on both lines of one finder. -/
structure AlignmentCentre (w cx cy : Nat) : Prop where
  even : cx % 2 = 0 ∧ cy % 2 = 0
  low : (cx = 6 ∨ 16 ≤ cx) ∧ (cy = 6 ∨ 16 ≤ cy)
  high : (cx + 7 = w ∨ cx + 17 ≤ w) ∧ (cy + 7 = w ∨ cy + 17 ≤ w)
  noFinder : (16 ≤ cx ∨ 16 ≤ cy) ∧ (16 ≤ cx ∨ cy + 17 ≤ w) ∧ (cx + 17 ≤ w ∨ 16 ≤ cy)

/-- The centres of the alignment patterns, by their coordinates' indexes (R102). -/
theorem mem_alignmentCentres {align : List Nat} {c : Nat × Nat} : c ∈ alignmentCentres align ↔
    ∃ i j, i < align.length ∧ j < align.length ∧
      (i, j) ∉ [(0, 0), (0, align.length - 1), (align.length - 1, 0)] ∧ c = (align.getD i 0, align.getD j 0) := by
  have hexcluded : ∀ n i j, excludedPair n i j = false ↔ (i, j) ∉ [(0, 0), (0, n - 1), (n - 1, 0)] := by
    intro n i j
    simp [excludedPair, and_assoc]
  simp only [alignmentCentres, List.mem_flatMap, List.mem_map, List.mem_filter, List.mem_range, Bool.not_eq_true',
    hexcluded]
  constructor
  · rintro ⟨i, hi, j, ⟨hj, hij⟩, rfl⟩
    exact ⟨i, j, hi, hj, hij, rfl⟩
  · rintro ⟨i, j, hi, hj, hij, rfl⟩
    exact ⟨i, hi, j, ⟨hj, hij⟩, rfl⟩

section Skeleton

variable {v : Nat} {g : Geometry} (hg : geometry v = some g)
include hg

theorem alignmentCentre_of_mem {c : Nat × Nat} (hc : c ∈ alignmentCentres g.align) :
    AlignmentCentre g.width c.1 c.2 := by
  obtain ⟨i, j, hi, hj, hij, rfl⟩ := mem_alignmentCentres.mp hc
  obtain ⟨heveni, hlowi, hhighi, -⟩ := alignFacts hg i hi
  obtain ⟨hevenj, hlowj, hhighj, -⟩ := alignFacts hg j hj
  simp only [List.mem_cons, Prod.mk.injEq, List.not_mem_nil, or_false, not_or] at hij
  constructor <;> omega

/-- The coordinates stand 5 apart, so no cell is in two patterns (R91, R102). -/
theorem align_apart {i j : Nat} (hi : i < g.align.length) (hj : j < g.align.length) :
    i = j ∨ g.align.getD i 0 + 5 ≤ g.align.getD j 0 ∨ g.align.getD j 0 + 5 ≤ g.align.getD i 0 := by
  obtain ⟨-, -, -, hbelowi⟩ := alignFacts hg i hi
  obtain ⟨-, -, -, hbelowj⟩ := alignFacts hg j hj
  rcases lt_trichotomy i j with h | h | h
  · exact .inr (.inl (hbelowj i h))
  · exact .inl h
  · exact .inr (.inr (hbelowi j h))

/-- Two patterns that share a cell are one. -/
theorem alignmentCentres_unique {c d : Nat × Nat} (hc : c ∈ alignmentCentres g.align)
    (hd : d ∈ alignmentCentres g.align) {x y : Nat} (hxc : ringDistance x y c.1 c.2 ≤ 2)
    (hxd : ringDistance x y d.1 d.2 ≤ 2) : d = c := by
  obtain ⟨i, j, hi, hj, -, rfl⟩ := mem_alignmentCentres.mp hc
  obtain ⟨i', j', hi', hj', -, rfl⟩ := mem_alignmentCentres.mp hd
  rw [ringDistance_le_iff] at hxc hxd
  obtain rfl : i = i' := (align_apart hg hi hi').resolve_right (by omega)
  obtain rfl : j = j' := (align_apart hg hj hj').resolve_right (by omega)
  rfl

theorem alignmentPart_of_le {c : Nat × Nat} (hc : c ∈ alignmentCentres g.align) {x y : Nat}
    (h : ringDistance x y c.1 c.2 ≤ 2) : alignmentPart g.align x y = alignmentStep x y c.1 c.2 :=
  overlay_map_of_unique (step := fun c => alignmentStep x y c.1 c.2) hc fun _ hd hstep =>
    alignmentCentres_unique hg hc hd h (not_not.mp (mt alignmentStep_eq_none_iff.mpr hstep))

/-- An alignment pattern on row 6 or column 6 has the colours of the timing pattern there (R100, R102), for its
coordinates are even. -/
theorem alignmentPart_of_timing {x y : Nat} {dark : Bool} (h : timingStep x y = some dark) :
    alignmentPart g.align x y = none ∨ alignmentPart g.align x y = some dark := by
  refine overlay_of_agree fun b hb => ?_
  obtain ⟨c, hc, hstep⟩ := List.mem_map.mp hb
  have hle : ringDistance x y c.1 c.2 ≤ 2 := not_not.mp (mt alignmentStep_eq_none_iff.mpr (by simp [hstep]))
  obtain ⟨⟨hevenx, heveny⟩, ⟨hlowx, hlowy⟩, -, -, -⟩ := alignmentCentre_of_mem hg hc
  rw [alignmentStep_of_le hle, Option.some.injEq] at hstep
  rw [ringDistance_le_iff] at hle
  unfold timingStep at h
  split at h
  case isTrue hx =>
    obtain rfl : b = (y % 2 == 0) := by
      rw [← hstep, ringDistance_eq_absDiff (by omega), ringColour_eq heveny (by omega)]
    exact Option.some.inj h
  case isFalse hx =>
    split at h
    case isTrue hy =>
      obtain rfl : b = (x % 2 == 0) := by
        rw [← hstep, ringDistance_comm, ringDistance_eq_absDiff (by omega), ringColour_eq hevenx (by omega)]
      exact Option.some.inj h
    case isFalse => cases h

/-! ### The fixed patterns -/

/-- Finders hold their rings and separators (R101): nothing is drawn over them. -/
theorem skeletonCell_finder {c : Nat × Nat} (hc : c ∈ finderCentres g.width) {x y : Nat} (hx : x < g.width)
    (hy : y < g.width) (h : ringDistance x y c.1 c.2 ≤ 4) :
    skeletonCell g x y = if ringDistance x y c.1 c.2 ∈ [0, 1, 3] then 0x81#8 else 0x80#8 := by
  have hw := width_ge g
  have hcorner : (x ≤ 7 ∧ y ≤ 7) ∨ (g.width ≤ x + 8 ∧ y ≤ 7) ∨ (x ≤ 7 ∧ g.width ≤ y + 8) := by
    rw [ringDistance_le_iff] at h
    rw [mem_finderCentres] at hc
    omega
  have halign : alignmentPart g.align x y = none := by
    refine alignmentPart_eq_none_iff.mpr fun d hd hle => ?_
    obtain ⟨-, hlow, hhigh, hnoFinder⟩ := alignmentCentre_of_mem hg hd
    rw [ringDistance_le_iff] at hle
    omega
  rw [skeletonCell_of_patterns (not_inVersionArea (by omega)) (by omega) (by rw [formatArea_iff]; omega)
    (by rw [halign, finderPart_of_le hw hc h, finderStep_of_le h, Option.none_or, Option.some_or])]
  simp [or_assoc]

/-- Timing shows between the finders (R100), under alignment patterns of its own colours. -/
theorem skeletonCell_timing {x y : Nat} {dark : Bool} (h : timingStep x y = some dark)
    (hx : x = 6 ∨ (8 ≤ x ∧ x ≤ g.width - 9)) (hy : y = 6 ∨ (8 ≤ y ∧ y ≤ g.width - 9)) (hxy : x ≠ y) :
    skeletonCell g x y = if dark then 0x81#8 else 0x80#8 := by
  have hw := width_ge g
  have hline : x = 6 ∨ y = 6 := by
    by_contra hline
    rw [timingStep_eq_none_iff.mpr (not_or.mp hline)] at h
    cases h
  have hfinder : finderPart g.width x y = none := by
    simp only [finderPart_eq_none_iff, ringDistance_le_iff]
    omega
  refine skeletonCell_of_patterns (not_inVersionArea (by omega)) (by omega) (by rw [formatArea_iff]; omega) ?_
  rw [hfinder, h]
  rcases alignmentPart_of_timing hg h with hnone | hsome
  · rw [hnone, Option.none_or, Option.none_or]
  · rw [hsome, Option.some_or]

/-- An alignment pattern holds its rings (R102): it meets no information area. -/
theorem skeletonCell_alignment {c : Nat × Nat} (hc : c ∈ alignmentCentres g.align) {x y : Nat}
    (h : ringDistance x y c.1 c.2 ≤ 2) :
    skeletonCell g x y = if ringDistance x y c.1 c.2 ∈ [0, 2] then 0x81#8 else 0x80#8 := by
  have hw := width_ge g
  obtain ⟨-, hlow, hhigh, hnoFinder⟩ := alignmentCentre_of_mem hg hc
  have hbox := ringDistance_le_iff.mp h
  rw [skeletonCell_of_patterns (not_inVersionArea (by omega)) (by omega) (by rw [formatArea_iff]; omega)
    (by rw [alignmentPart_of_le hg hc h, alignmentStep_of_le h, Option.some_or])]
  simp

end Skeleton

/-- The format cells are drawn light over the patterns (R103). -/
theorem skeletonCell_format {g : Geometry} {x y : Nat} (h : formatArea g.width x y = true) :
    skeletonCell g x y = 0x80#8 := by
  have hw := width_ge g
  have hstep : formatStep g.width x y = some false := if_pos h
  rw [formatArea_iff] at h
  refine skeletonCell_of_overlay (dark := false) ?_
  rw [overlay_skeletonSteps, versionStep_eq_none_iff.mpr (not_inVersionArea (by omega)),
    darkModuleStep_eq_none_iff.mpr (by omega), hstep]
  rfl

/-- The dark module is dark (R104). -/
theorem skeletonCell_darkModule (g : Geometry) : skeletonCell g 8 (g.width - 8) = 0x81#8 := by
  have hw := width_ge g
  have hstep : darkModuleStep g.width 8 (g.width - 8) = some true := if_pos ⟨rfl, rfl⟩
  refine skeletonCell_of_overlay (dark := true) ?_
  rw [overlay_skeletonSteps, versionStep_eq_none_iff.mpr (not_inVersionArea (by omega)), hstep]
  rfl

/-- The version blocks hold the bits of the version word (R106), drawn last. -/
theorem skeletonCell_version {g : Geometry} (hv : 7 ≤ g.version) {i : Nat} (hi : i < 18) :
    skeletonCell g (g.width - 11 + i % 3) (i / 3) = (if g.vword.getLsbD i then 0x81#8 else 0x80#8) ∧
    skeletonCell g (i / 3) (g.width - 11 + i % 3) = (if g.vword.getLsbD i then 0x81#8 else 0x80#8) := by
  have hwidth : g.width = 21 + 4 * (g.version - 1) := rfl
  have hindex : 3 * (i / 3) + (g.width - 11 + i % 3 - (g.width - 11)) = i := by omega
  constructor <;> apply skeletonCell_of_overlay <;> rw [overlay_skeletonSteps, versionStep, if_pos hv]
  · rw [if_pos (by omega), hindex, Option.some_or]
  · rw [if_neg (by omega), if_pos (by omega), hindex, Option.some_or]

/-- The two copies of a format bit are cells of the format area (R103, R115). -/
theorem formatArea_copies {w i : Nat} (hw : 21 ≤ w) (hi : i < 15) :
    formatArea w (formatFirstCopy i).1 (formatFirstCopy i).2 = true ∧
    formatArea w (formatSecondCopy w i).1 (formatSecondCopy w i).2 = true := by
  simp only [formatArea_iff]
  constructor
  · interval_cases i <;> simp [formatFirstCopy]
  · unfold formatSecondCopy
    split <;> omega

/-- Settles O27: each pattern is drawn last on its own cells, or in the colour of what is drawn over it. -/
theorem skeletonHoldsItsFixedPatterns : Obligations.SkeletonHoldsItsFixedPatterns := by
  intro v g hg
  have hw := width_ge g
  refine ⟨fun c hc x y hx hy h => skeletonCell_finder hg hc hx hy h, fun i hi hi' => ⟨?_, ?_⟩,
    fun i j hi hj hij x y h => skeletonCell_alignment hg (mem_alignmentCentres.mpr ⟨i, j, hi, hj, hij, rfl⟩) h,
    fun i hi => ⟨skeletonCell_format (formatArea_copies hw hi).1, skeletonCell_format (formatArea_copies hw hi).2⟩,
    skeletonCell_darkModule g, fun hv i hi => skeletonCell_version ((geometry_version hg).2 ▸ hv) hi⟩
  · have hstep : timingStep i 6 = some (i % 2 == 0) := by
      rw [timingStep, if_neg (by omega), if_pos rfl]
    simpa using skeletonCell_timing hg hstep (by omega) (by omega) (by omega)
  · simpa using skeletonCell_timing hg (x := 6) (y := i) (if_pos rfl) (by omega) (by omega) (by omega)

end Sys2Proof.Machine
end

section
/-! PROOF. The capacity of the skeleton (42_frame.md R111): its fixed cells as a disjoint union, counted. -/

namespace Sys2Proof.Machine

/-! ### The fixed cells -/

/-- The cells that every symbol of width w has fixed outside its alignment patterns and version blocks: row 6, column 6,
and three corners of finder, separator and format cells with the dark module (R100, R101, R103, R104). -/
def outerCells (w : Nat) : Finset (Nat × Nat) :=
  Finset.range w ×ˢ {6} ∪ {6} ×ˢ Finset.Icc 9 (w - 9) ∪
    (Finset.range 9 ∪ Finset.Ico (w - 8) w) ×ˢ (Finset.range 9).erase 6 ∪ Finset.range 9 ×ˢ Finset.Ico (w - 8) w

/-- The cells of the version blocks (R106). -/
def versionCells (g : Geometry) : Finset (Nat × Nat) :=
  if 7 ≤ g.version then
    Finset.Icc (g.width - 11) (g.width - 9) ×ˢ Finset.range 6 ∪
      Finset.range 6 ×ˢ Finset.Icc (g.width - 11) (g.width - 9)
  else ∅

/-- The five lines of an alignment pattern, without the timing line (R100, R102). -/
def patternLines (c : Nat) : Finset Nat := (Finset.Icc (c - 2) (c + 2)).erase 6

/-- The cells of the alignment patterns off the timing lines (R102). -/
def alignmentCells (align : List Nat) : Finset (Nat × Nat) :=
  (alignmentCentres align).toFinset.biUnion fun c => patternLines c.1 ×ˢ patternLines c.2

theorem mem_outerCells {w x y : Nat} (hw : 21 ≤ w) : (x, y) ∈ outerCells w ↔ x < w ∧ y < w ∧
    (x = 6 ∨ y = 6 ∨ (x ≤ 8 ∧ y ≤ 8) ∨ (w - 8 ≤ x ∧ y ≤ 8) ∨ (x ≤ 8 ∧ w - 8 ≤ y)) := by
  simp only [outerCells, Finset.mem_union, Finset.mem_product, Finset.mem_range, Finset.mem_singleton, Finset.mem_Icc,
    Finset.mem_Ico, Finset.mem_erase]
  omega

theorem mem_versionCells {g : Geometry} {x y : Nat} : (x, y) ∈ versionCells g ↔ InVersionArea g x y := by
  unfold versionCells InVersionArea
  split
  · simp only [Finset.mem_union, Finset.mem_product, Finset.mem_Icc, Finset.mem_range]
    omega
  · simp [*]

theorem mem_alignmentCells {align : List Nat} {x y : Nat} : (x, y) ∈ alignmentCells align ↔
    (∃ c ∈ alignmentCentres align, ringDistance x y c.1 c.2 ≤ 2) ∧ x ≠ 6 ∧ y ≠ 6 := by
  have hbox : ∀ c : Nat × Nat, x ∈ patternLines c.1 ∧ y ∈ patternLines c.2 ↔
      ringDistance x y c.1 c.2 ≤ 2 ∧ x ≠ 6 ∧ y ≠ 6 := by
    intro c
    simp only [patternLines, Finset.mem_erase, Finset.mem_Icc, ringDistance_le_iff]
    omega
  simp only [alignmentCells, Finset.mem_biUnion, List.mem_toFinset, Finset.mem_product, hbox]
  tauto

/-- The cells that some step sets (R99). -/
def fixedCells (g : Geometry) : Finset (Nat × Nat) := outerCells g.width ∪ versionCells g ∪ alignmentCells g.align

/-- A cell is fixed exactly when some step sets it (R73, R99). -/
theorem isFixed_skeletonCell_iff {g : Geometry} {x y : Nat} :
    isFixed (skeletonCell g x y) = true ↔ overlay (skeletonSteps g x y) ≠ none := by
  rw [skeletonCell]
  cases overlay (skeletonSteps g x y) with
  | none => decide
  | some dark => cases dark <;> decide

/-- Some part sets a cell: the version blocks, the dark module, the format area, a finder or timing, or an alignment
pattern off the timing lines. -/
theorem some_part_iff {version module format align finder timing : Prop} :
    ¬ (¬ version ∧ ¬ module ∧ ¬ format ∧ align ∧ finder ∧ ¬ timing) ↔
      ((timing ∨ module ∨ format ∨ ¬ finder) ∨ version) ∨ ¬ align ∧ ¬ timing := by
  by_cases ht : timing <;> simp only [ht] <;> tauto

theorem isFixed_skeletonCell {g : Geometry} {x y : Nat} (hx : x < g.width) (hy : y < g.width) :
    isFixed (skeletonCell g x y) = true ↔ (x, y) ∈ fixedCells g := by
  have hw := width_ge g
  have houter : (x, y) ∈ outerCells g.width ↔ (x = 6 ∨ y = 6) ∨ (x = 8 ∧ y = g.width - 8) ∨
      formatArea g.width x y = true ∨ ¬ finderPart g.width x y = none := by
    simp only [mem_outerCells hw, formatArea_iff, finderPart_eq_none_iff, ringDistance_le_iff]
    constructor <;> intro h <;> omega
  have halign : (x, y) ∈ alignmentCells g.align ↔ ¬ alignmentPart g.align x y = none ∧ ¬ (x = 6 ∨ y = 6) := by
    rw [mem_alignmentCells, alignmentPart_eq_none_iff, not_or]
    push Not
    rfl
  have htiming : timingStep x y = none ↔ ¬ (x = 6 ∨ y = 6) := by rw [timingStep_eq_none_iff, not_or]
  rw [isFixed_skeletonCell_iff, fixedCells, Finset.mem_union, Finset.mem_union, mem_versionCells, houter, halign,
    overlay_skeletonSteps, Ne]
  simp only [Option.or_eq_none_iff, versionStep_eq_none_iff, darkModuleStep_eq_none_iff, formatStep_eq_none_iff,
    htiming]
  exact some_part_iff

/-! ### How many they are -/

/-- Sets of cells are disjoint when no cell is in both. -/
theorem disjoint_cells {p q : Finset (Nat × Nat)} (h : ∀ x y, (x, y) ∈ p → (x, y) ∈ q → False) : Disjoint p q :=
  Finset.disjoint_left.mpr fun c => h c.1 c.2

theorem card_outerCells {w : Nat} (hw : 21 ≤ w) : (outerCells w).card = 2 * w + 191 := by
  have hcolumns : (Finset.range 9 ∪ Finset.Ico (w - 8) w).card = 17 := by
    rw [Finset.card_union_of_disjoint]
    · simp
      omega
    · refine Finset.disjoint_left.mpr fun x => ?_
      simp only [Finset.mem_range, Finset.mem_Ico]
      omega
  unfold outerCells
  rw [Finset.card_union_of_disjoint, Finset.card_union_of_disjoint, Finset.card_union_of_disjoint]
  · simp only [Finset.card_product, hcolumns, Finset.card_range, Finset.card_singleton, Nat.card_Icc, Nat.card_Ico,
      Finset.card_erase_of_mem (Finset.mem_range.mpr (show 6 < 9 by decide))]
    omega
  all_goals
    refine disjoint_cells fun x y => ?_
    simp only [Finset.mem_union, Finset.mem_product, Finset.mem_range, Finset.mem_singleton, Finset.mem_Icc,
      Finset.mem_Ico, Finset.mem_erase]
    omega

theorem card_versionCells (g : Geometry) : (versionCells g).card = if 7 ≤ g.version then 36 else 0 := by
  unfold versionCells
  split
  case isFalse => rfl
  case isTrue hversion =>
    have hwidth : g.width = 21 + 4 * (g.version - 1) := rfl
    have hthree : g.width - 9 + 1 - (g.width - 11) = 3 := by omega
    rw [Finset.card_union_of_disjoint]
    · simp [hthree]
    · refine disjoint_cells fun x y => ?_
      simp only [Finset.mem_product, Finset.mem_range, Finset.mem_Icc]
      omega

/-- How many cells the alignment patterns have off the timing lines: 25 each, or 20 where one of their lines is a timing
line (R102). -/
def alignmentCount (align : List Nat) : Nat :=
  ∑ c ∈ (alignmentCentres align).toFinset, (if c.1 = 6 then 4 else 5) * (if c.2 = 6 then 4 else 5)

/-- How many cells of a symbol are fixed. -/
def fixedCount (g : Geometry) : Nat :=
  2 * g.width + 191 + (if 7 ≤ g.version then 36 else 0) + alignmentCount g.align

/-- Of the five lines of a pattern one is a timing line when its centre is on it (R102). -/
theorem card_patternLines {c : Nat} (h : c = 6 ∨ 16 ≤ c) : (patternLines c).card = if c = 6 then 4 else 5 := by
  rcases h with rfl | h
  · rfl
  · rw [if_neg (by omega), patternLines, Finset.erase_eq_of_notMem (by simp; omega), Nat.card_Icc]
    omega

section Capacity

variable {v : Nat} {g : Geometry} (hg : geometry v = some g)
include hg

theorem card_alignmentCells : (alignmentCells g.align).card = alignmentCount g.align := by
  rw [alignmentCount, alignmentCells, Finset.card_biUnion]
  · refine Finset.sum_congr rfl fun c hc => ?_
    obtain ⟨hlowx, hlowy⟩ := (alignmentCentre_of_mem hg (List.mem_toFinset.mp hc)).low
    rw [Finset.card_product, card_patternLines hlowx, card_patternLines hlowy]
  · intro c hc d hd hne
    refine disjoint_cells fun x y hxc hxd => hne ?_
    simp only [Finset.mem_product, patternLines, Finset.mem_erase, Finset.mem_Icc] at hxc hxd
    exact alignmentCentres_unique hg (List.mem_toFinset.mp hd) (List.mem_toFinset.mp hc) (x := x) (y := y)
      (ringDistance_le_iff.mpr (by omega)) (ringDistance_le_iff.mpr (by omega))

/-- Off the timing lines the alignment patterns keep clear of the corners and of the version blocks. -/
theorem mem_alignmentCells_bounds {x y : Nat} (h : (x, y) ∈ alignmentCells g.align) :
    x < g.width ∧ y < g.width ∧ (x, y) ∉ outerCells g.width ∧ ¬ InVersionArea g x y := by
  have hw := width_ge g
  obtain ⟨⟨c, hc, hle⟩, hx, hy⟩ := mem_alignmentCells.mp h
  obtain ⟨-, hlow, hhigh, hnoFinder⟩ := alignmentCentre_of_mem hg hc
  rw [ringDistance_le_iff] at hle
  exact ⟨by omega, by omega, by rw [mem_outerCells hw]; omega, not_inVersionArea (by omega)⟩

/-- The three sets of fixed cells are disjoint. -/
theorem card_fixedCells : (fixedCells g).card = fixedCount g := by
  have hw := width_ge g
  have hversion : Disjoint (outerCells g.width) (versionCells g) := by
    refine disjoint_cells fun x y houter hversion => ?_
    rw [mem_outerCells hw] at houter
    exact not_inVersionArea (by omega) (mem_versionCells.mp hversion)
  have halign : Disjoint (outerCells g.width ∪ versionCells g) (alignmentCells g.align) := by
    refine disjoint_cells fun x y h halign => ?_
    obtain ⟨-, -, houter, hversion⟩ := mem_alignmentCells_bounds hg halign
    exact (Finset.mem_union.mp h).elim houter fun h => hversion (mem_versionCells.mp h)
  rw [fixedCells, Finset.card_union_of_disjoint halign, Finset.card_union_of_disjoint hversion, card_outerCells hw,
    card_versionCells, card_alignmentCells hg, fixedCount]

theorem fixedCells_subset : fixedCells g ⊆ Finset.range g.width ×ˢ Finset.range g.width := by
  have hw := width_ge g
  intro c hc
  rw [Finset.mem_product, Finset.mem_range, Finset.mem_range]
  rcases Finset.mem_union.mp hc with hc | hc
  · rcases Finset.mem_union.mp hc with hc | hc
    · obtain ⟨hx, hy, -⟩ := (mem_outerCells hw).mp hc
      exact ⟨hx, hy⟩
    · have hbounds := (mem_versionCells.mp hc).bounds
      omega
  · obtain ⟨hx, hy, -⟩ := mem_alignmentCells_bounds hg hc
    exact ⟨hx, hy⟩

end Capacity

/-! ### The capacity -/

/-- The entries of a grid with a property, as cells (R43). -/
theorem countP_gridOf {α : Type} (w : Nat) (f : Nat → Nat → α) (p : α → Bool) : (gridOf w f).countP p =
    ((Finset.range w ×ˢ Finset.range w).filter fun c => p (f c.1 c.2) = true).card := by
  rw [gridOf, List.countP_map, countP_range]
  refine Finset.card_nbij' (fun k => (k % w, k / w)) (fun c => c.2 * w + c.1) ?_ ?_ ?_ ?_
  · intro k hk
    simp only [Finset.coe_filter, Finset.mem_range, Set.mem_ofPred_eq, Finset.mem_product, Function.comp] at hk ⊢
    have hpos : 0 < w := Nat.pos_of_mul_pos_left (k.zero_le.trans_lt hk.1)
    exact ⟨⟨Nat.mod_lt _ hpos, Nat.div_lt_of_lt_mul hk.1⟩, hk.2⟩
  · rintro ⟨x, y⟩ hc
    simp only [Finset.coe_filter, Finset.mem_range, Set.mem_ofPred_eq, Finset.mem_product, Function.comp] at hc ⊢
    obtain ⟨hmod, hdiv⟩ := rounds_mod_div y hc.1.1
    exact ⟨cellIndex_lt hc.1.1 hc.1.2, by rw [hmod, hdiv]; exact hc.2⟩
  · intro k _
    exact Nat.div_add_mod' k w
  · rintro ⟨x, y⟩ hc
    simp only [Finset.coe_filter, Finset.mem_range, Set.mem_ofPred_eq, Finset.mem_product] at hc
    obtain ⟨hmod, hdiv⟩ := rounds_mod_div y hc.1.1
    exact Prod.ext hmod hdiv

/-- What the version table must be checked for (R91, R111): the fixed cells and the capacity of a row are all cells of
its symbol. -/
theorem capacityFacts_table : ∀ v ∈ List.range' 1 40, ∀ g ∈ geometry v,
    8 * g.total + g.rem + fixedCount g = g.width * g.width := by decide +kernel

/-- Settles O28: the free cells are the grid without the fixed cells. -/
theorem skeletonFreeCellsMatchTheCapacity : Obligations.SkeletonFreeCellsMatchTheCapacity := by
  intro v g hg
  have hfree : ((Finset.range g.width ×ˢ Finset.range g.width).filter fun c =>
      (!isFixed (skeletonCell g c.1 c.2)) = true) = (Finset.range g.width ×ˢ Finset.range g.width) \ fixedCells g := by
    rw [Finset.sdiff_eq_filter]
    refine Finset.filter_congr fun c hc => ?_
    rw [Finset.mem_product, Finset.mem_range, Finset.mem_range] at hc
    rw [← isFixed_skeletonCell hc.1 hc.2, Bool.not_eq_true', Bool.not_eq_true]
  have hcard := Finset.card_sdiff_add_card_eq_card (fixedCells_subset hg)
  have hfacts := capacityFacts_table v (geometry_version hg).1 g hg
  rw [Finset.card_product, Finset.card_range, card_fixedCells hg, ← hfacts] at hcard
  rw [skeleton, countP_gridOf, hfree]
  exact Nat.add_right_cancel hcard

end Sys2Proof.Machine
end

section
/-! PROOF. The format cells and the run lengths of a line (43_mask.md R115, R118), and the selected mask (R125). -/

namespace Sys2Proof.Machine

/-! ### Format cells -/

/-- The cells with a format bit are the format area of R103. -/
theorem formatBitIndex_isSome_iff {w x y : Nat} : (formatBitIndex w x y).isSome = true ↔
    (x = 8 ∧ (y ≤ 5 ∨ y = 7 ∨ y = 8 ∨ w - 7 ≤ y ∧ y ≤ w - 1)) ∨
      (y = 8 ∧ (x ≤ 5 ∨ x = 7 ∨ w - 8 ≤ x ∧ x ≤ w - 1)) := by
  unfold formatBitIndex
  split_ifs <;> simp only [Option.isSome_some, Option.isSome_none, Bool.false_eq_true, true_iff, false_iff] <;> omega

/-- In a format cell the candidate's module is the format bit (R115, R116). -/
theorem candidateBit_of_formatBitIndex {w x y i : Nat} (h : formatBitIndex w x y = some i) (fmt : BitVec 15)
    (m : BitVec 3) (c : Byte) : candidateBit w fmt m x y c = fmt.getLsbD i := by
  rw [candidateBit, h]

/-- Settles O31: the index of a format cell finds each bit at both of its copies and nowhere else. -/
theorem formatBitsStandInTheirTwoCopies : Obligations.FormatBitsStandInTheirTwoCopies := by
  intro w hw
  refine ⟨fun i hi => ?_, fun x y _ _ => ⟨?_, fun i h => formatBitIndex_copy hw h⟩⟩
  · have hfirst := formatBitIndex_first (w := w) hi
    have hsecond := formatBitIndex_second hw hi
    exact ⟨hfirst, hsecond, fun fmt m c =>
      ⟨candidateBit_of_formatBitIndex hfirst fmt m c, candidateBit_of_formatBitIndex hsecond fmt m c⟩⟩
  · rw [Bool.eq_iff_iff, formatBitIndex_isSome_iff, formatArea_iff]

/-! ### Run lengths -/

/-- A run of `n` cells followed by the rest of the line expands to just that (R118). -/
theorem expandRuns_runsFrom (colour : Bool) (n : Nat) (bs : List Bool) :
    expandRuns colour (runsFrom colour n bs) = List.replicate n colour ++ bs := by
  induction bs generalizing colour n with
  | nil => simp [runsFrom, expandRuns]
  | cons b bs ih =>
    unfold runsFrom
    split
    · next hb =>
      rw [ih, hb, List.replicate_succ', List.append_assoc]
      rfl
    · next hb =>
      rw [expandRuns, ← Bool.eq_not_of_ne hb, ih]
      rfl

/-- Every run has a cell (R118). -/
theorem one_le_of_mem_runsFrom {colour : Bool} {n : Nat} {bs : List Bool} {r : Int} (hn : 1 ≤ n)
    (h : r ∈ runsFrom colour n bs) : 1 ≤ r := by
  induction bs generalizing colour n with
  | nil =>
    rw [runsFrom, List.mem_singleton] at h
    omega
  | cons b bs ih =>
    unfold runsFrom at h
    split at h
    · exact ih (by omega) h
    · rcases List.mem_cons.mp h with rfl | h
      · omega
      · exact ih le_rfl h

/-- The run-length list of a line expands to the line, light run first (R118). -/
theorem expandRuns_runLengths (line : List Bool) : expandRuns false (runLengths line) = line := by
  match line with
  | [] => rfl
  | false :: bs => exact expandRuns_runsFrom false 1 bs
  | true :: bs => exact expandRuns_runsFrom true 1 bs

/-- An entry of a run-length list is a run of at least one cell, or the placeholder in front of a dark start (R118). -/
theorem getElem?_runLengths {line : List Bool} {k : Nat} {n : Int} (h : (runLengths line)[k]? = some n) :
    1 ≤ n ∨ (k = 0 ∧ n = -1 ∧ line.head? = some true) := by
  match line, k with
  | [], _ => simp [runLengths] at h
  | false :: bs, _ => exact .inl (one_le_of_mem_runsFrom le_rfl (List.mem_of_getElem? h))
  | true :: bs, 0 => exact .inr ⟨rfl, (Option.some.inj h).symm, rfl⟩
  | true :: bs, k + 1 => exact .inl (one_le_of_mem_runsFrom le_rfl (List.mem_of_getElem? (l := runsFrom true 1 bs) h))

/-- Settles O32: the list is the placeholder of a dark start and then the runs, none of them empty. -/
theorem runLengthListDescribesItsLine : Obligations.RunLengthListDescribesItsLine := fun line =>
  ⟨expandRuns_runLengths line, fun _ _ => getElem?_runLengths⟩

/-! ### Totals -/

/-- Settles O33: a legal version is at most 177 modules wide, and the candidate has a module for each cell. -/
theorem computedTotalsAreExactAndBounded : Obligations.ComputedTotalsAreExactAndBounded := by
  intro v g lvl m cells hg hcells
  exact penalties_bounded (width_le hg) ((length_candidate _ _ _ _).trans hcells)

/-! ### Selection -/

/-- The selection is the library's first minimum of a list (R125). -/
theorem selectMask_eq_argmin (en : BitVec 8) (total : BitVec 3 → Nat) :
    selectMask en total = (maskIds.filter (isCandidate en)).argmin total := by
  unfold selectMask List.argmin
  congr 1
  funext best m
  cases best <;> rfl

/-- The candidates are the masks that MASK_EN enables (R124). -/
theorem mem_candidates {en : BitVec 8} {m : BitVec 3} :
    m ∈ maskIds.filter (isCandidate en) ↔ en.getLsbD m.toNat = true := by
  have hids : m ∈ maskIds := by
    revert m
    decide
  rw [List.mem_filter, and_iff_right hids, isCandidate]

/-- In a list of rising mask ids the place of a mask follows its id. -/
theorem idxOf_le_idxOf_iff {l : List (BitVec 3)} (hl : l.Pairwise (·.toNat < ·.toNat)) {m k : BitVec 3} (hm : m ∈ l)
    (hk : k ∈ l) : l.idxOf m ≤ l.idxOf k ↔ m.toNat ≤ k.toNat := by
  have hlt : ∀ {a b : BitVec 3}, a ∈ l → b ∈ l → l.idxOf a < l.idxOf b → a.toNat < b.toNat := by
    intro a b ha hb h
    simpa using List.pairwise_iff_getElem.mp hl _ _ (List.idxOf_lt_length_iff.mpr ha)
      (List.idxOf_lt_length_iff.mpr hb) h
  constructor
  · intro h
    rcases h.lt_or_eq with h | h
    · exact (hlt hm hk h).le
    · rw [(List.idxOf_inj hm).mp h]
  · intro h
    by_contra hgt
    exact absurd (hlt hk hm (not_le.mp hgt)) (not_lt.mpr h)

/-- Settles O34: of the candidates in ascending order, the first of smallest total. -/
theorem selectionTakesTheLowestMinimum : Obligations.SelectionTakesTheLowestMinimum := by
  intro en total m
  have hsorted : (maskIds.filter (isCandidate en)).Pairwise (·.toNat < ·.toNat) :=
    List.Pairwise.filter _ (by decide)
  rw [selectMask_eq_argmin, List.argmin_eq_some_iff, mem_candidates]
  refine and_congr_right fun hm => ?_
  have horder : ∀ k : BitVec 3, en.getLsbD k.toNat = true →
      ((maskIds.filter (isCandidate en)).idxOf m ≤ (maskIds.filter (isCandidate en)).idxOf k ↔ m.toNat ≤ k.toNat) :=
    fun k hk => idxOf_le_idxOf_iff hsorted (mem_candidates.mpr hm) (mem_candidates.mpr hk)
  simp only [mem_candidates]
  constructor
  · rintro ⟨hmin, hfirst⟩ k hk
    have := hmin k hk
    rcases this.lt_or_eq with hlt | heq
    · exact .inl hlt
    · exact .inr ⟨heq, (horder k hk).mp (hfirst k hk heq.ge)⟩
  · intro h
    refine ⟨fun k hk => ?_, fun k hk hle => (horder k hk).mpr ?_⟩ <;> have := h k hk <;> omega

end Sys2Proof.Machine
end

section
/-! PROOF. The penalties of a matrix, each by its own rule (43_mask.md R119 to R123). -/

namespace Sys2Proof.Machine

/-- The rows of a matrix given as a row-major list (R118). -/
theorem rowsOf_gridOf (w : Nat) (C : Nat → Nat → Bool) :
    rowsOf w (gridOf w C) = (List.range w).map fun y => (List.range w).map fun x => C x y :=
  (List.append_inj (linesOf_gridOf w C) (by simp [rowsOf])).1

/-- The module of a matrix in its rows. -/
theorem moduleAt_gridOf {w x y : Nat} (C : Nat → Nat → Bool) (hx : x < w) (hy : y < w) :
    moduleAt (rowsOf w (gridOf w C)) x y = C x y := by
  simp [moduleAt, rowsOf_gridOf, List.getD_eq_getElem?_getD, hx, hy]

/-- Counting the cells of a square row by row, the cells numbered from 1. -/
theorem sum_countP_rows (n : Nat) (p : Nat → Nat → Bool) :
    ((List.range n).map fun y => (List.range n).countP fun x => p (x + 1) (y + 1)).sum =
      ((Finset.Icc 1 n ×ˢ Finset.Icc 1 n).filter fun c => p c.1 c.2 = true).card := by
  have hshift : ∀ f : Nat → Nat, ∑ x ∈ Finset.range n, f (x + 1) = ∑ x ∈ Finset.Icc 1 n, f x := fun f => by
    rw [Finset.range_eq_Ico, Finset.sum_Ico_add' f 0 n 1, Nat.zero_add]
    rfl
  calc ((List.range n).map fun y => (List.range n).countP fun x => p (x + 1) (y + 1)).sum
      = ∑ y ∈ Finset.range n, (List.range n).countP fun x => p (x + 1) (y + 1) := rfl
    _ = ∑ y ∈ Finset.range n, ∑ x ∈ Finset.range n, if p (x + 1) (y + 1) = true then 1 else 0 := by
        simp only [countP_range, Finset.card_filter]
    _ = ∑ y ∈ Finset.Icc 1 n, ∑ x ∈ Finset.Icc 1 n, if p x y = true then 1 else 0 := by
        rw [← hshift]
        exact Finset.sum_congr rfl fun y _ => hshift fun x => if p x (y + 1) = true then 1 else 0
    _ = _ := by rw [Finset.card_filter, Finset.sum_product_right]

/-- Rule 2 counts the 2×2 squares of one colour by their lower right corners (R120). -/
theorem rule2_gridOf (w : Nat) (C : Nat → Nat → Bool) : rule2 w (rowsOf w (gridOf w C)) =
    3 * ((Finset.Icc 1 (w - 1) ×ˢ Finset.Icc 1 (w - 1)).filter fun p =>
      C p.1 p.2 = C (p.1 - 1) p.2 ∧ C p.1 p.2 = C p.1 (p.2 - 1) ∧ C p.1 p.2 = C (p.1 - 1) (p.2 - 1)).card := by
  rw [rule2, sum_countP_rows]
  congr 2
  refine Finset.filter_congr fun p hp => ?_
  obtain ⟨hx, hy⟩ : (1 ≤ p.1 ∧ p.1 ≤ w - 1) ∧ 1 ≤ p.2 ∧ p.2 ≤ w - 1 := by simpa using hp
  simp only [uniformSquare, Bool.and_eq_true, beq_iff_eq, and_assoc]
  rw [moduleAt_gridOf C (by omega) (by omega), moduleAt_gridOf C (by omega) (by omega),
    moduleAt_gridOf C (by omega) (by omega), moduleAt_gridOf C (by omega) (by omega)]

/-- Rule 4's distance from 50 per cent is an absolute value (R122). -/
theorem rule4_eq (w dark : Nat) :
    rule4 w dark = (((100 * dark / (w * w) : Nat) : Int) - 50).natAbs / 5 * 10 := by
  rw [rule4, absDiff]
  generalize 100 * dark / (w * w) = percent
  congr 2
  omega

/-- The parts of an entry fit their 32-bit registers for every version's width (R38). -/
theorem penalties_parts {w : Nat} {c : List Bool} (hw : w ≤ 177) (hc : c.length = w * w) :
    (penalties w c).n1.toNat = (((linesOf w c).map runLengths).map lineRule1).sum ∧
    (penalties w c).n2.toNat = rule2 w (rowsOf w c) ∧
    (penalties w c).n3.toNat = (((linesOf w c).map runLengths).map lineRule3).sum ∧
    (penalties w c).n4.toNat = rule4 w (darkCount c) ∧ (penalties w c).dark.toNat = darkCount c := by
  have hcells : w * w ≤ 177 * 177 := Nat.mul_le_mul hw hw
  have h1 : (((linesOf w c).map runLengths).map lineRule1).sum ≤ (w + w) * w :=
    sum_linesOf_le fun line hl => (lineRule1_runLengths_le line).trans hl
  have h2 := rule2_le w (rowsOf w c)
  have hsquares : (w - 1) * (w - 1) ≤ w * w := Nat.mul_le_mul (w.sub_le 1) (w.sub_le 1)
  have h3 : (((linesOf w c).map runLengths).map lineRule3).sum ≤ (w + w) * (40 * 178) :=
    sum_linesOf_le fun line hl => (lineRule3_le _).trans (by have := length_runLengths_le line; omega)
  have hdark : darkCount c ≤ w * w := List.countP_le_length.trans hc.le
  have h4 := rule4_le hdark
  rw [Nat.add_mul] at h1
  simp only [penalties, BitVec.toNat_ofNat]
  refine ⟨?_, ?_, ?_, ?_, ?_⟩ <;> refine Nat.mod_eq_of_lt ?_ <;> omega

/-- The entry computed for a matrix holds its penalties by the rules (R119 to R123). -/
theorem penaltiesFollowTheRules_gridOf {w : Nat} (hw : w ≤ 177) (C : Nat → Nat → Bool) :
    PenaltiesFollowTheRules w C (penalties w (gridOf w C)) := by
  have hlen := length_gridOf w C
  obtain ⟨hn1, hn2, hn3, hn4, hdark⟩ := penalties_parts hw hlen
  refine ⟨?_, ?_, ?_, ?_, ?_, (penalties_bounded hw hlen).1⟩
  · rw [hn1, linesOf_gridOf, Nat.cast_list_sum]
    simp only [List.map_map, Function.comp_def, lineRule1_eq]
  · rw [hn2, rule2_gridOf]
  · rw [hn3, linesOf_gridOf]
    simp only [List.map_map, Function.comp_def, lineRule3_eq]
  · rw [hdark, darkCount, countP_gridOf]
  · rw [hn4, hdark, rule4_eq]

end Sys2Proof.Machine
end

section
/-! PROOF. MASK_APPLY and MASK_EVAL (43_mask.md R116, R117, R124 to R127): the state that both leave. -/

namespace Sys2Proof.Machine

/-! ### What a mask command writes -/

/-- The module of mask m's candidate for the cells of GRID (R116). -/
def candidateModule (s : State) (g : Geometry) (m : BitVec 3) (x y : Nat) : Bool :=
  candidateBit g.width (formatWord s.regs.level m) m x y (s.mem.read (0x08000 + y * g.width + x))

theorem candidateMatrix_eq (s : State) (g : Geometry) (m : BitVec 3) :
    candidateMatrix s g m = gridOf g.width (candidateModule s g m) := rfl

theorem candidate_eq_candidateMatrix (s : State) (g : Geometry) (m : BitVec 3) :
    candidate g.width s.regs.level m (s.mem.gridCells g) = candidateMatrix s g m :=
  candidate_gridCells s.mem g s.regs.level m

theorem isCandidate_candidateModule (s : State) (g : Geometry) (m : BitVec 3) :
    IsCandidate g.width (formatWord s.regs.level m) m (fun x y => s.mem.read (0x08000 + y * g.width + x))
      (candidateModule s g m) :=
  isCandidate_candidateBit (width_ge g) _ _ _

/-- A mask is scored on its candidate matrix (R117). -/
theorem scoreOf_eq_penalties (s : State) (g : Geometry) (m : BitVec 3) :
    scoreOf g s.regs.level (s.mem.gridCells g) m = penalties g.width (candidateMatrix s g m) := by
  rw [scoreOf, candidate_eq_candidateMatrix]

/-- OUT holds the selected candidate, 1 for dark (R73, R126). -/
theorem read_storeBuf_candidate (s : State) (g : Geometry) (m : BitVec 3) {x y : Nat} (hx : x < g.width)
    (hy : y < g.width) :
    (s.mem.storeBuf .out ((candidate g.width s.regs.level m (s.mem.gridCells g)).map outByte)).read
      (0x10000 + y * g.width + x) = if candidateModule s g m x y then 1#8 else 0#8 := by
  have hk : y * g.width + x < ((candidateMatrix s g m).map outByte).length := by
    simpa [candidateMatrix_eq] using cellIndex_lt hx hy
  rw [candidate_eq_candidateMatrix, Nat.add_assoc]
  refine (read_storeBuf_same s.mem .out _ hk).trans ?_
  rw [List.getD_eq_getElem _ _ hk, List.getElem_map]
  simp only [candidateMatrix_eq, getElem_gridOf g.width _ x y hx]
  rfl

/-- The bytes of OUT past the symbol's modules, and of every other memory, are in neither command's list (R72). -/
theorem maskCommand_sameBytesOutside {s : State} {g : Geometry} (hg : s.regs.geometry = some g) {i : Instr}
    (hi : i = .maskEval ∨ ∃ m, i = .maskApply m) : SameBytesOutside 0x10000 (g.width * g.width) s (resultOf i s) := by
  refine resultOf_sameBytesOutside fun a ha => ?_
  have hout : inBuf .out g.modules a = false := inBuf_eq_false ha
  rcases hi with rfl | ⟨m, rfl⟩ <;> simp only [mayWriteByte, hg, hout]

/-! ### MASK_APPLY -/

theorem resultOf_maskApply {s : State} {g : Geometry} (hg : s.regs.geometry = some g) (m : BitVec 3) :
    resultOf (.maskApply m) s = complete (maskApplyBody g m (issue (.maskApply m) 0 s)) := by
  have hnone : reportedError (.maskApply m) s = none := by simp [reportedError, hg]
  rw [resultOf_of_no_error hnone, commandBody, issue_geometry, hg]
  rfl

/-- MASK_APPLY scores mask m and no other (R126). -/
theorem scoreEntry_maskApply {s : State} {g : Geometry} (hg : s.regs.geometry = some g) (m k : BitVec 3) :
    (resultOf (.maskApply m) s).regs.scoreEntry k =
      if k = m then penalties g.width (candidateMatrix s g m) else .notEvaluated := by
  rw [resultOf_maskApply hg, ← scoreOf_eq_penalties]
  exact scoreboard_get _ k

/-- Settles O35: what MASK_APPLY writes is mask m's candidate, whose modules and penalties are those of the rules. -/
theorem maskApplyWritesAndScoresItsCandidate : Obligations.MaskApplyWritesAndScoresItsCandidate := by
  intro s g m hg
  have hresult := resultOf_maskApply hg m
  obtain ⟨hidle, hports⟩ := resultOf_ports (.maskApply m) s
  have hout : ∀ x y, x < g.width → y < g.width → (resultOf (.maskApply m) s).mem.read (0x10000 + y * g.width + x) =
      if candidateModule s g m x y then 1#8 else 0#8 := by
    intro x y hx hy
    rw [hresult]
    exact read_storeBuf_candidate s g m hx hy
  refine ⟨_, exec_eq _ _, hout, ⟨candidateModule s g m, isCandidate_candidateModule s g m, hout, ?_⟩,
    maskCommand_sameBytesOutside hg (.inr ⟨m, rfl⟩), scoreEntry_maskApply hg m, ?_, hidle, hports⟩
  · rw [scoreEntry_maskApply hg, if_pos rfl]
    exact penaltiesFollowTheRules_gridOf (width_le hg) _
  · rw [hresult]
    rfl

/-! ### MASK_EVAL -/

/-- The scoreboard MASK_EVAL computes from CONFIG and GRID (R127). -/
def maskBoard (s : State) (g : Geometry) : Vector ScoreEntry 8 :=
  evalBoard g s.regs.level (s.mem.gridCells g) s.regs.config.maskEn

theorem resultOf_maskEval {s : State} {g : Geometry} (hg : s.regs.geometry = some g)
    (hen : s.regs.config.maskEn ≠ 0#8) :
    resultOf .maskEval s = complete (writeResult g (selectedMask s.regs.config.maskEn (maskBoard s g)) (maskBoard s g)
      (s.mem.gridCells g) (issue .maskEval 0 s)) := by
  have hnone : reportedError .maskEval s = none := by simp [reportedError, hg, hen]
  rw [resultOf_of_no_error hnone, commandBody, issue_geometry, hg]
  rfl

/-- MASK_EVAL scores the masks of MASK_EN and no other (R127). -/
theorem scoreEntry_maskEval {s : State} {g : Geometry} (hg : s.regs.geometry = some g)
    (hen : s.regs.config.maskEn ≠ 0#8) (k : BitVec 3) :
    (resultOf .maskEval s).regs.scoreEntry k =
      if s.regs.config.maskEn.getLsbD k.toNat then penalties g.width (candidateMatrix s g k) else .notEvaluated := by
  rw [resultOf_maskEval hg hen, ← scoreOf_eq_penalties]
  exact scoreboard_get _ k

/-- With a candidate enabled there is a selection (R125). -/
theorem selectMask_eq_some {en : BitVec 8} (hen : en ≠ 0#8) (board : Vector ScoreEntry 8) :
    selectMask en (boardTotal board) = some (selectedMask en board) := by
  cases hsel : selectMask en (boardTotal board) with
  | some m => rw [selectedMask, hsel, Option.getD_some]
  | none =>
    rw [selectMask_eq_argmin, List.argmin_eq_none] at hsel
    refine absurd (BitVec.eq_of_getLsbD_eq fun i hi => ?_) hen
    have hnot : BitVec.ofNat 3 i ∉ maskIds.filter (isCandidate en) := by simp [hsel]
    rw [mem_candidates, BitVec.toNat_ofNat, Nat.mod_eq_of_lt hi] at hnot
    simpa using hnot

/-- Settles O36: what MASK_EVAL writes is the candidate that the selection takes from its scoreboard. -/
theorem maskEvalSelectsAndWritesTheMinimum : Obligations.MaskEvalSelectsAndWritesTheMinimum := by
  intro s g hg hen
  have hresult := resultOf_maskEval hg hen
  have hscore := scoreEntry_maskEval hg hen
  have hsel := selectMask_eq_some hen (maskBoard s g)
  generalize selectedMask s.regs.config.maskEn (maskBoard s g) = m at hresult hsel
  obtain ⟨hcandidate, hmin⟩ := (selectionTakesTheLowestMinimum _ _ m).mp hsel
  obtain ⟨hidle, hports⟩ := resultOf_ports .maskEval s
  have htotal : ∀ k, boardTotal (maskBoard s g) k = ((resultOf .maskEval s).regs.scoreEntry k).total.toNat := by
    intro k
    rw [hresult]
    rfl
  have hout : ∀ x y, x < g.width → y < g.width → (resultOf .maskEval s).mem.read (0x10000 + y * g.width + x) =
      if candidateModule s g m x y then 1#8 else 0#8 := by
    intro x y hx hy
    rw [hresult]
    exact read_storeBuf_candidate s g m hx hy
  refine ⟨_, m, exec_eq _ _, hscore, hcandidate, fun k hk => ?_, hout, fun k hk => ?_,
    maskCommand_sameBytesOutside hg (.inl rfl), ?_, hidle, hports⟩
  · rw [BitVec.lt_def, ← BitVec.toNat_inj, ← htotal, ← htotal]
    exact hmin k hk
  · refine ⟨candidateModule s g k, isCandidate_candidateModule s g k, ?_, fun h => h ▸ hout⟩
    rw [hscore, if_pos hk]
    exact penaltiesFollowTheRules_gridOf (width_le hg) _
  · rw [hresult]
    rfl

/-! ### MASK_EVAL again, and with one candidate -/

/-- A test on addresses that no byte of the block passes finds the old entries alone after a store. -/
theorem filter_store (m : Memory) {base : Nat} {bytes : List Byte} {p : Nat → Bool}
    (hp : ∀ a, base ≤ a ∧ a < base + bytes.length → p a = false) :
    (m.store base bytes).filter (fun c => p c.1) = m.filter (fun c => p c.1 && decide (c.1 < base)) ++
      m.filter fun c => p c.1 && decide (base + bytes.length ≤ c.1) := by
  have hblock : ((cellsFrom base bytes).filter Memory.listed).filter (fun c => p c.1) = [] := by
    refine List.filter_eq_nil_iff.mpr fun c hc => ?_
    rw [hp c.1 (mem_cellsFrom (List.mem_of_mem_filter hc))]
    exact Bool.false_ne_true
  rw [Memory.store, List.filter_append, List.filter_append, hblock, List.append_nil, List.filter_filter,
    List.filter_filter]

/-- Storing the same bytes at the same place a second time changes no entry, whatever the memory (R127). -/
theorem store_store_same (m : Memory) (base : Nat) (bytes : List Byte) :
    (m.store base bytes).store base bytes = m.store base bytes := by
  have hdisjoint : ∀ a : Nat, (decide (a < base) && decide (base + bytes.length ≤ a)) = false := by
    intro a
    rw [Bool.and_eq_false_iff, decide_eq_false_iff_not, decide_eq_false_iff_not]
    omega
  have hbelow : (m.store base bytes).filter (fun c => decide (c.1 < base)) =
      m.filter fun c => decide (c.1 < base) := by
    rw [filter_store m (p := fun a => decide (a < base)) fun a ha => decide_eq_false (not_lt.mpr ha.1)]
    simp [hdisjoint]
  have habove : (m.store base bytes).filter (fun c => decide (base + bytes.length ≤ c.1)) =
      m.filter fun c => decide (base + bytes.length ≤ c.1) := by
    rw [filter_store m (p := fun a => decide (base + bytes.length ≤ a)) fun a ha => decide_eq_false (not_le.mpr ha.2)]
    simp [hdisjoint, Bool.and_comm]
  conv_lhs => rw [Memory.store, hbelow, habove]
  rfl

/-- A store to OUT leaves the cells of GRID alone (R117). -/
theorem gridCells_storeBuf_out {v : Nat} {g : Geometry} (hg : geometry v = some g) (m : Memory) {bytes : List Byte}
    (hlen : bytes.length ≤ g.modules) : (m.storeBuf .out bytes).gridCells g = m.gridCells g := by
  have hfit : g.modules ≤ 32768 := (modules_le hg).trans (by decide)
  exact readBlock_congr fun k hk =>
    read_storeBuf_other (r := .out) (q := .grid) m bytes (by simp) (hk.trans_le hfit) (hlen.trans hfit)

/-- MASK_EVAL reports no error exactly with a legal version and a candidate (R136). -/
theorem reportedError_maskEval_eq_none {s : State} (h : reportedError .maskEval s = none) :
    ∃ g, s.regs.geometry = some g ∧ s.regs.config.maskEn ≠ 0#8 := by
  cases hg : s.regs.geometry with
  | none => simp [reportedError, hg] at h
  | some g =>
    refine ⟨g, rfl, fun hen => ?_⟩
    simp [reportedError, hg, hen] at h

/-- The result of MASK_EVAL written over itself is the same state (R127). -/
theorem complete_writeResult_again (g : Geometry) (m : BitVec 3) (board : Vector ScoreEntry 8) (cells : List Byte)
    (s : State) :
    complete (writeResult g m board cells (issue .maskEval 0
      (complete (writeResult g m board cells (issue .maskEval 0 s))))) =
    complete (writeResult g m board cells (issue .maskEval 0 s)) :=
  congrArg (fun mem => { complete (writeResult g m board cells (issue .maskEval 0 s)) with mem := mem })
    (store_store_same s.mem (regionBase .out) ((candidate g.width s.regs.level m cells).map outByte))

/-- Settles O37: MASK_EVAL reads CONFIG and GRID, which it keeps, and stores the same bytes to OUT again. -/
theorem maskEvalTwiceChangesNothing : Obligations.MaskEvalTwiceChangesNothing := by
  intro s
  cases he : reportedError .maskEval s with
  | some e =>
    refine ⟨_, exec_of_reportedError he (by simp), ?_⟩
    exact exec_of_reportedError (i := .maskEval) (e := e) he (by simp)
  | none =>
    obtain ⟨g, hg, hen⟩ := reportedError_maskEval_eq_none he
    have hresult := resultOf_maskEval hg hen
    generalize ht : resultOf .maskEval s = t at hresult
    have hconfig : t.regs.config = s.regs.config := by rw [hresult]; rfl
    have hcells : t.mem.gridCells g = s.mem.gridCells g := by
      rw [hresult]
      exact gridCells_storeBuf_out hg s.mem (by simp)
    have hboard : maskBoard t g = maskBoard s g := by
      rw [maskBoard, maskBoard, hconfig, level_congr hconfig, hcells]
    refine ⟨t, ht ▸ exec_eq .maskEval s, ?_⟩
    rw [exec_eq, resultOf_maskEval ((geometry_congr hconfig).trans hg) (hconfig ▸ hen), hboard, hcells, hconfig,
      hresult]
    exact congrArg _ (complete_writeResult_again g _ _ _ s)

/-- A mask alone in MASK_EN is the only candidate (R23). -/
theorem getLsbD_single (m k : BitVec 3) : (1#8 <<< m.toNat).getLsbD k.toNat = decide (k = m) := by
  revert m k
  decide

/-- Settles O38: the only candidate is the one scored and the one selected. -/
theorem singleCandidateEvalIsMaskApply : Obligations.SingleCandidateEvalIsMaskApply := by
  intro s m hone hgeo
  obtain ⟨g, hg⟩ := Option.isSome_iff_exists.mp hgeo
  have hcandidate : ∀ k, isCandidate s.regs.config.maskEn k = decide (k = m) := fun k => by
    rw [isCandidate, hone, getLsbD_single]
  have hen : s.regs.config.maskEn ≠ 0#8 := by
    intro h
    simpa [h, isCandidate] using hcandidate m
  have hboard : maskBoard s g = applyBoard g s.regs.level (s.mem.gridCells g) m := by
    rw [maskBoard, evalBoard, applyBoard]
    refine congrArg scoreboard (funext fun k => ?_)
    rw [hcandidate]
    by_cases hk : k = m <;> simp [hk]
  have hselected : selectedMask s.regs.config.maskEn (maskBoard s g) = m := by
    have hsel := ((selectionTakesTheLowestMinimum _ _ _).mp (selectMask_eq_some hen (maskBoard s g))).1
    simpa using (hcandidate _).symm.trans hsel
  refine ⟨_, exec_eq _ _, ?_⟩
  rw [exec_eq, resultOf_maskApply hg, resultOf_maskEval hg hen, hselected, hboard]
  rfl

end Sys2Proof.Machine
end

section
/-! PROOF. NOP, the reserved opcodes and SOFT_RESET (44_control.md R128, R130, R131). -/

namespace Sys2Proof.Machine

/-- Settles O13: NOP is its issue and its completion. -/
theorem nopChangesOnlyStatus : Obligations.NopChangesOnlyStatus :=
  fun s => ⟨_, exec_eq .nop s, rfl, rfl, Bool.and_true _⟩

/-- Settles O14: every reserved opcode reports IllegalCommand, and a failing command changes STATUS alone. -/
theorem reservedOpcodesRaiseIllegalCommand : Obligations.ReservedOpcodesRaiseIllegalCommand := by
  intro s i hi
  have herror : reportedError i s = some .illegalCommand := by
    rcases hi with rfl | rfl | rfl | rfl | rfl | rfl <;> rfl
  have hne : i ≠ .rsInit := by
    rintro rfl
    simp at hi
  exact ⟨_, exec_of_reportedError herror hne, rfl, Bool.and_true _⟩

/-- Settles O15: the registers are those of reset but for STATUS, and the memory changes in the tables alone. -/
theorem softResetRestoresTheResetRegisters : Obligations.SoftResetRestoresTheResetRegisters := by
  intro s
  obtain ⟨hidle, hports⟩ := resultOf_ports .softReset s
  have hstatus : statusWord false false ⟨true, false, false, 0#4, 0xF#4⟩ = 0x0000F002#32 := by decide
  have hconfig : readReg State.reset .config = 0x00FF0001#32 := by decide
  exact ⟨_, exec_eq .softReset s, rfl, hstatus, hconfig, rfl, rfl, hidle, hports, read_clearTables s.mem⟩

end Sys2Proof.Machine
end

section
/-! PROOF. ENCODE (44_control.md R129): it is the four commands in sequence, and what it leaves is a function of CONFIG
and DATA_BUF alone. -/

namespace Sys2Proof.Machine

/-! ### The pipeline -/

section Pipeline

variable {s : State} {g : Geometry} (hg : s.regs.geometry = some g)
  (hlen : s.regs.dataLen.toNat = (s.regs.blockSpec g).data)
include hg hlen

theorem resultOf_blockEncode : resultOf .blockEncode s = complete (blockEncodeBody g (issue .blockEncode 0 s)) := by
  have hnone : reportedError .blockEncode s = none := by simp [reportedError, hg, hlen]
  rw [resultOf_of_no_error hnone, commandBody, issue_geometry, hg]
  rfl

theorem resultOf_encodeSymbol (hen : s.regs.config.maskEn ≠ 0#8) :
    resultOf .encodeSymbol s = complete (encodeBody g (issue .encodeSymbol 0 s)) := by
  have hnone : reportedError .encodeSymbol s = none := by simp [reportedError, hg, hlen, hen]
  rw [resultOf_of_no_error hnone, commandBody, issue_geometry, hg]
  rfl

end Pipeline

/-- ENCODE reports no error only with a legal version, its capacity of data and a candidate (R129, R136). -/
theorem reportedError_encodeSymbol_eq_none {s : State} (h : reportedError .encodeSymbol s = none) :
    ∃ g, s.regs.geometry = some g ∧ s.regs.dataLen.toNat = (s.regs.blockSpec g).data ∧
      s.regs.config.maskEn ≠ 0#8 := by
  cases hg : s.regs.geometry with
  | none => simp [reportedError, hg] at h
  | some g =>
    simp only [reportedError, hg] at h
    split at h
    · split at h
      · cases h
      · exact ⟨g, rfl, ‹_›, ‹_›⟩
    · cases h

/-- A command other than SOFT_RESET keeps CONFIG, and with it the legal version (R21, R72). -/
theorem resultOf_geometry {i : Instr} (hi : i ≠ .softReset) (s : State) :
    (resultOf i s).regs.geometry = s.regs.geometry :=
  geometry_congr (resultOf_keepsUnlisted hi s).config

/-- Settles O39: each command finds the version legal as the one before it, and no body reads STATUS or the engine,
which are all that the issues and completions in between write. -/
theorem encodeIsThePipeline : Obligations.EncodeIsThePipeline := by
  intro s g hg hlen hen
  have h1 := resultOf_blockEncode hg hlen
  have hg1 : (resultOf .blockEncode s).regs.geometry = some g := (resultOf_geometry (by decide) _).trans hg
  have h2 := resultOf_frameInit hg1
  have hg2 : (resultOf .frameInit _).regs.geometry = some g := (resultOf_geometry (by decide) _).trans hg1
  have h3 := resultOf_framePlace hg2
  have hg3 : (resultOf .framePlace _).regs.geometry = some g := (resultOf_geometry (by decide) _).trans hg2
  have h4 := resultOf_maskEval hg3 (by rw [h3, h2, h1]; exact hen)
  refine ⟨_, _, _, _, exec_eq _ _, exec_eq _ _, exec_eq _ _, exec_eq _ _, ?_⟩
  rw [exec_eq, resultOf_encodeSymbol hg hlen hen, h4, h3, h2, h1]
  exact ⟨rfl, rfl, rfl, rfl⟩

/-! ### Blocks of bytes stored one after the other -/

/-- The memory after blocks are stored in turn, each from its region's start (R11). -/
def storeAll (m : Memory) (writes : List (Region × List Byte)) : Memory :=
  writes.foldl (fun n w => n.storeBuf w.1 w.2) m

/-- What given stores leave at an address is either the same byte for every memory or what the memory held. -/
theorem read_storeAll (writes : List (Region × List Byte)) (a : Nat) :
    (∃ b, ∀ m, (storeAll m writes).read a = b) ∨ ∀ m, (storeAll m writes).read a = m.read a := by
  induction writes with
  | nil => exact .inr fun _ => rfl
  | cons w ws ih =>
    obtain ⟨b, hb⟩ | hkept := ih
    · exact .inl ⟨b, fun _ => hb _⟩
    · by_cases hin : regionBase w.1 ≤ a ∧ a < regionBase w.1 + w.2.length
      · obtain ⟨k, rfl⟩ := Nat.exists_eq_add_of_le hin.1
        exact .inl ⟨_, fun m => (hkept _).trans (read_storeBuf_same m w.1 w.2 (by omega))⟩
      · exact .inr fun m => (hkept _).trans (read_store_outside m _ _ _ (by omega))

/-- The same blocks stored a second time change no byte. -/
theorem read_storeAll_again (m : Memory) (writes : List (Region × List Byte)) (a : Nat) :
    (storeAll (storeAll m writes) writes).read a = (storeAll m writes).read a := by
  obtain ⟨b, hb⟩ | hkept := read_storeAll writes a
  · rw [hb, hb]
  · exact hkept _

/-- A block just stored reads back. -/
theorem readBuf_storeBuf_same (m : Memory) (r : Region) {bytes : List Byte} {len : Nat} (h : bytes.length = len) :
    (m.storeBuf r bytes).readBuf r 0 len = bytes := by
  subst h
  refine List.ext_getElem (by simp) fun k _ hk => ?_
  rw [getElem_readBuf]
  exact read_store_inside m _ bytes k hk

/-- Stores into other regions leave a buffer alone (R53). -/
theorem Stores.readBuf_eq {rs : List Region} {m n : Memory} (h : Stores rs m n) {q : Region} (hq : q ∉ rs) {len : Nat}
    (hlen : len ≤ regionSize q) : n.readBuf q 0 len = m.readBuf q 0 len := by
  refine readBlock_congr fun k hk => h.read_eq fun r hr => ?_
  rw [Nat.add_zero, inRegion_offset q r k (hk.trans_le hlen), decide_eq_false_iff_not]
  exact fun e => hq (e ▸ hr)

/-! ### The symbol as a function of CONFIG and the codewords -/

/-- The codewords that CONFIG and DATA_BUF give (R97). -/
def codewordsOf (g : Geometry) (s : State) : List Byte :=
  codewordStream (s.regs.blockSpec g) (s.mem.readBuf .dataBuf 0 (s.regs.blockSpec g).data)

/-- The raw frame of the codewords (R112). -/
def symbolFrame (g : Geometry) (codewords : List Byte) : List Byte :=
  placedFrame g.width (bitStream codewords) (skeleton g)

/-- The scoreboard of the raw frame (R127). -/
def symbolBoard (g : Geometry) (r : Regs) (codewords : List Byte) : Vector ScoreEntry 8 :=
  evalBoard g r.level (symbolFrame g codewords) r.config.maskEn

/-- The mask selected for the raw frame (R125). -/
def symbolMask (g : Geometry) (r : Regs) (codewords : List Byte) : BitVec 3 :=
  selectedMask r.config.maskEn (symbolBoard g r codewords)

/-- The registers with ENCODE's results in them (R129). -/
def symbolRegs (g : Geometry) (r : Regs) (codewords : List Byte) : Regs :=
  { r with
    cwLen := BitVec.ofNat 12 g.total
    score := symbolBoard g r codewords
    format := formatWord r.level (symbolMask g r codewords)
    sel := ⟨symbolMask g r codewords, true⟩ }

/-- What ENCODE stores, in its order (R129). -/
def symbolWrites (g : Geometry) (r : Regs) (codewords : List Byte) : List (Region × List Byte) :=
  [ (.cwBuf, codewords), (.grid, skeleton g), (.grid, symbolFrame g codewords)
  , (.out, (candidate g.width r.level (symbolMask g r codewords) (symbolFrame g codewords)).map outByte) ]

section Symbol

variable {s : State} {g : Geometry} (hg : s.regs.geometry = some g)
include hg

/-- CW_BUF holds the codewords when FRAME_PLACE reads it, and GRID the skeleton (R107, R112). -/
theorem framePlaceBody_mem_of_encode : (framePlaceBody g (frameInitBody g (blockEncodeBody g s))).mem =
    ((s.mem.storeBuf .cwBuf (codewordsOf g s)).storeBuf .grid (skeleton g)).storeBuf .grid
      (symbolFrame g (codewordsOf g s)) := by
  have hlen : (codewordsOf g s).length = g.total :=
    length_codewordStream_geometry hg s.regs.level (by simp [Regs.blockSpec])
  have hcw : (frameInitBody g (blockEncodeBody g s)).mem.readBuf .cwBuf 0 g.total = codewordsOf g s :=
    calc _ = (blockEncodeBody g s).mem.readBuf .cwBuf 0 g.total :=
          (stores_frameInitBody (rs := [.grid]) hg .refl (by simp)).readBuf_eq (by simp) (rowFacts hg).1.le
      _ = codewordsOf g s := readBuf_storeBuf_same _ _ hlen
  have hgrid : (frameInitBody g (blockEncodeBody g s)).mem.gridCells g = skeleton g :=
    readBuf_storeBuf_same _ _ (length_skeleton g)
  rw [framePlaceBody_mem, hcw, hgrid]
  rfl

/-- ENCODE's body in closed form: the old CW_BUF, GRID and OUT do not enter (R129). -/
theorem encodeBody_eq : encodeBody g s =
    { s with
      regs := symbolRegs g s.regs (codewordsOf g s)
      mem := storeAll s.mem (symbolWrites g s.regs (codewordsOf g s)) } := by
  have hmem := framePlaceBody_mem_of_encode hg
  have hcells : (framePlaceBody g (frameInitBody g (blockEncodeBody g s))).mem.gridCells g =
      symbolFrame g (codewordsOf g s) := by
    rw [hmem]
    exact readBuf_storeBuf_same _ _ (by simp [symbolFrame])
  rw [encodeBody, maskEvalBody, hcells, writeResult, hmem]
  rfl

/-- ENCODE reads its inputs and keeps them: the same codewords come out again (R129). -/
theorem codewordsOf_resultOf : codewordsOf g (resultOf .encodeSymbol s) = codewordsOf g s := by
  have hstores : Stores [.cwBuf, .grid, .out] s.mem (resultOf .encodeSymbol s).mem :=
    (resultOf_mem .encodeSymbol s).resolve_right (by simp)
  obtain ⟨htotal, -⟩ := rowFacts hg
  obtain ⟨-, -, -, -, -, hsum⟩ := blockFacts hg s.regs.level
  have hfit : (s.regs.blockSpec g).data ≤ 4096 := by
    rw [Regs.blockSpec]
    omega
  rw [codewordsOf, blockSpec_congr (resultOf_keepsUnlisted (by decide) s).config,
    hstores.readBuf_eq (by simp) hfit, codewordsOf]

/-- What a successful ENCODE leaves, in closed form (R129). -/
theorem resultOf_encodeSymbol_closed (hlen : s.regs.dataLen.toNat = (s.regs.blockSpec g).data)
    (hen : s.regs.config.maskEn ≠ 0#8) :
    (resultOf .encodeSymbol s).regs =
      { symbolRegs g s.regs (codewordsOf g s) with status := statusAfter 0x8#4 s.regs.status.ovr none } ∧
    (resultOf .encodeSymbol s).mem = storeAll s.mem (symbolWrites g s.regs (codewordsOf g s)) := by
  rw [resultOf_encodeSymbol hg hlen hen, encodeBody_eq (s := issue .encodeSymbol 0 s) hg]
  exact ⟨rfl, rfl⟩

end Symbol

/-- Settles O40: a second ENCODE fails as the first, or makes of the same inputs the same registers and the same
stores. -/
theorem encodeTwiceGivesTheSameResult : Obligations.EncodeTwiceGivesTheSameResult := by
  intro s
  cases he : reportedError .encodeSymbol s with
  | some e =>
    exact ⟨_, _, exec_of_reportedError he (by decide),
      exec_of_reportedError (i := .encodeSymbol) (e := e) he (by decide), rfl, fun _ => rfl⟩
  | none =>
    obtain ⟨g, hg, hlen, hen⟩ := reportedError_encodeSymbol_eq_none he
    obtain ⟨hregs, hmem⟩ := resultOf_encodeSymbol_closed hg hlen hen
    have hcodewords := codewordsOf_resultOf hg
    refine ⟨_, _, exec_eq _ _, exec_eq _ _, ?_⟩
    generalize resultOf .encodeSymbol s = t at *
    obtain ⟨hregs', hmem'⟩ := resultOf_encodeSymbol_closed (s := t) (by rw [hregs]; exact hg)
      (by rw [hregs]; exact hlen) (by rw [hregs]; exact hen)
    rw [hcodewords, hregs] at hregs' hmem'
    refine ⟨hregs'.trans hregs.symm, fun a => ?_⟩
    rw [hmem', hmem]
    exact read_storeAll_again s.mem (symbolWrites g s.regs (codewordsOf g s)) a

end Sys2Proof.Machine
end

section
/-! PROOF. The issue of a command, its completion with the first error of its check order, the writes dropped while it
runs, and the interrupt (60_exceptions.md R136 to R140). -/

namespace Sys2Proof.Machine

/-! ### Completion -/

/-- Settles O8: every command has a result, IDLE, whose STATUS is that of its first error or none. -/
theorem everyCommandReportsItsFirstError : Obligations.EveryCommandReportsItsFirstError :=
  fun i s => ⟨_, exec_eq i s, resultOf_engine i s, resultOf_status i s⟩

/-- Settles O9: a command checks before it writes, so a failing one is its issue and its error. -/
theorem failingCommandWritesOnlyStatus : Obligations.FailingCommandWritesOnlyStatus :=
  fun _ _ _ herror hi => exec_of_reportedError herror hi

/-! ### Writes while BUSY -/

/-- A write with a meaning is dropped while BUSY and sets OVR, whatever it addresses (R139). -/
theorem txnBusy_write_of_legal {addr : Addr} {size : Size} (h : LegalAccess addr.toNat size) (i : Instr) (data : Word)
    (u : State) : txnBusy i (.write addr size data) u = respond .ok (setOverrun u) := by
  obtain ⟨tgt, ht⟩ := Option.isSome_iff_exists.mp ((target_isSome addr size).mpr h)
  simp [txnBusy, writeBusy, ht]

/-- Settles O49: the target of the access alone decides between the dropped write and the BusError. -/
theorem busyWritesAreDroppedAndSetOverrun : Obligations.BusyWritesAreDroppedAndSetOverrun := by
  intro s i left addr size data rest he hin
  rw [step_txnBusy he hin]
  refine ⟨fun hlegal => ?_, fun hillegal => ?_⟩
  · rw [txnBusy_write_of_legal hlegal]
    rfl
  · have ht : target addr size = none := by
      rwa [← Option.not_isSome_iff_eq_none, target_isSome]
    rw [txnBusy_busError (.inr rfl) ht]
    rfl

/-! ### The issue -/

/-- STATUS at an issue, field by field (R137). -/
theorem Status.issued_eq (st : Status) (op : BitVec 4) : st.issued op = ⟨false, false, st.ovr, 0#4, op⟩ := rfl

/-- `irq` is low after an issue, which clears DONE (R140). -/
@[simp] theorem irq_issue (i : Instr) (n : Nat) (s : State) : (issue i n s).irq = false := Bool.and_false _

/-- Settles O7: the step that takes the CMD write issues the decoded command, whose opcode is the word's OP field. -/
theorem issueSetsBusyAndClearsStatus : Obligations.IssueSetsBusyAndClearsStatus := by
  intro s c rest n he hr hin hlat
  have hstep := (stepRunsTheDecodedCommand.1 s c rest he hr hin).2 n hlat
  have hop : (decode c).opcode = c.extractLsb' 0 4 := opcodeFieldAloneSelectsTheCommand.1 c
  refine ⟨_, hstep, rfl, ?_, ?_, rfl, irq_issue _ _ _⟩
  · simp only [readReg, issue_regs, issue_engine, Status.issued_eq, hop]
    rfl
  · simp only [issue_regs, Status.issued_eq, hop]

/-! ### The interrupt -/

/-- A completed command has set DONE, with or without error (R138). -/
@[simp] theorem done_statusAfter (op : BitVec 4) (ovr : Bool) (e : Option CmdError) :
    (statusAfter op ovr e).done = true := by
  cases e <;> rfl

/-- After a completion `irq` is IE, since every command sets DONE (R138, R140). -/
theorem irq_resultOf (i : Instr) (s : State) : (resultOf i s).irq = (resultOf i s).regs.irqEn := by
  rw [State.irq, resultOf_status, done_statusAfter, Bool.and_true]

/-- A write of STATUS with a one at DONE makes `irq` low (R19, R140). -/
theorem irq_writeStatus {v : Word} (h : v.getLsbD 1 = true) (s : State) : (writeReg v s .status).irq = false := by
  simp [writeReg, State.irq, Status.written, h]

/-- Settles O48: every event that clears DONE or IE makes `irq` low, and a completion makes it IE, which only SOFT_RESET
clears. -/
theorem interruptIsEnableAndDone : Obligations.InterruptIsEnableAndDone := by
  refine ⟨fun _ => rfl, fun s _ h => irq_writeStatus h s, fun i n s => irq_issue i n s, fun _ => ⟨rfl, rfl⟩,
    fun i s hi => ⟨_, exec_eq i s, ?_⟩, fun s => ⟨_, exec_eq .softReset s, ?_⟩, fun _ => rfl⟩
  · rw [irq_resultOf]
    exact (resultOf_keepsUnlisted hi s).irqEn
  · rw [irq_resultOf]
    rfl

end Sys2Proof.Machine
end

section
/-! PROOF. Reset (70_reset_and_hazards.md R150, R151): the host's accesses while `rst_n` is low, the level put on the
pin, and that the core stays in its reset state. -/

namespace Sys2Proof.Machine

/-! ### Accesses while `rst_n` is low -/

/-- While `rst_n` is low no input issues a command (R150). -/
theorem issuedWord_of_low {s : State} (h : s.rstN = false) : issuedWord s = none := by
  unfold issuedWord
  split <;> simp [h]

/-- A command is issued with `rst_n` high alone (R18, R150). -/
theorem rstN_of_issuedWord {s : State} {c : Word} (h : issuedWord s = some c) : s.rstN = true := by
  by_contra hlow
  rw [issuedWord_of_low (Bool.eq_false_iff.mpr hlow)] at h
  contradiction

/-- While `rst_n` is low a transaction changes nothing but the answers (R150). -/
theorem txnIdle_of_low (x : Txn) {u : State} (h : u.rstN = false) : ∃ a, txnIdle x u = respond a u := by
  cases x with
  | read addr size =>
    simp only [txnIdle, readIdle]
    split <;> exact ⟨_, rfl⟩
  | write addr size data =>
    simp only [txnIdle, h, Bool.false_eq_true, if_false, writeInReset]
    split <;> exact ⟨_, rfl⟩

/-- While `rst_n` is low the answer of a legal write is ok (R150). -/
theorem txnIdle_write_of_low {addr : Addr} {size : Size} {u : State} (h : u.rstN = false)
    (hlegal : LegalAccess addr.toNat size) (data : Word) :
    txnIdle (.write addr size data) u = respond .ok u := by
  obtain ⟨tgt, ht⟩ := Option.isSome_iff_exists.mp ((target_isSome addr size).mpr hlegal)
  simp [txnIdle, h, writeInReset, ht]

/-- Settles O54: in reset even a write of CMD is only an input, and it is answered ok. -/
theorem writesInResetAreIgnored : Obligations.WritesInResetAreIgnored := by
  intro s addr size data rest hr he hin hlegal
  rw [step_idle he (issuedWord_of_low hr), whileIdle_cons hin, inputIdle,
    txnIdle_write_of_low (u := { s with inputs := rest }) hr hlegal]
  rfl

/-! ### The level on the pin -/

section Pin

variable {s : State} {high : Bool} {rest : List Input} (hin : s.inputs = .rstPin high :: rest)
include hin

/-- An IDLE core takes the level, which issues nothing. -/
theorem step_rstPin_idle (he : s.engine = .idle) : step s = .next (rstPin high { s with inputs := rest }) := by
  have hc : issuedWord s = none := by simp [issuedWord, hin]
  rw [step_idle he hc, whileIdle_cons hin]
  rfl

/-- A BUSY core that does not complete takes the level. -/
theorem step_rstPin_busy {i : Instr} {left : Nat} (he : s.engine = .busy i (left + 1)) :
    step s = .next (rstPin high { s with inputs := rest, engine := .busy i left }) := by
  rw [step_busy he, whileBusy_cons hin]
  rfl

end Pin

/-- `rst_n` low resets the core, IDLE or BUSY, the completing step of a command apart (R150). -/
theorem step_rstPin_low {s : State} {rest : List Input} (hin : s.inputs = .rstPin false :: rest)
    (he : ∀ i, s.engine ≠ .busy i 0) : step s = .next (assertReset { s with inputs := rest }) := by
  rcases hs : s.engine with _ | ⟨i, _ | left⟩
  · rw [step_rstPin_idle hin hs, hs]
    rfl
  · exact absurd hs (he i)
  · rw [step_rstPin_busy hin hs]
    rfl

/-- After `rst_n` low the tables read 0, and every other byte as the abandoned command leaves it (R150). -/
theorem read_assertReset (s : State) (a : Nat) :
    (assertReset s).mem.read a = if isTableAddr a then 0 else (abandonedMem s).read a := read_clearTables _ a

/-- What an abandoned command may write is unlisted again (R150, R151; log entry 4). -/
theorem read_abandonedMem {s : State} {i : Instr} {left : Nat} (he : s.engine = .busy i left) (a : Nat) :
    (abandonedMem s).read a = if mayWriteByte i s a then Memory.unlisted a else s.mem.read a := by
  simp only [abandonedMem, he]
  exact read_forget _ _ a

/-- Outside the codec tables an unlisted byte reads as the UNINIT of its place (R151). -/
theorem unlisted_region {r : Region} {k : Nat} (hk : k < regionSize r) (hr : r ∉ [Region.alphaTo, .indexOf, .genPoly]) :
    Memory.unlisted (regionBase r + k) = Config.uninit r k := by
  have htable : isTableAddr (regionBase r + k) = false := by
    by_contra h
    have hout := inRegion_of_isTableAddr (Bool.of_not_eq_false h) hr
    simp [inRegion_offset r r k hk] at hout
  simp [Memory.unlisted, regionOf_inRegion r k hk, htable]

/-- Settles O52: the low level is `assertReset`, whose forgotten bytes are the tables and the abandoned command's; the
high level is the pin. -/
theorem resetPinResetsAndAbandons : Obligations.ResetPinResetsAndAbandons := by
  refine ⟨fun s rest hin he => ⟨_, step_rstPin_low hin he, rfl, rfl, rfl, rfl, rfl, rfl, fun a ha => ?_,
      fun hs a ha => ?_, fun i left hs a ha => ?_⟩, fun r k hk h1 h2 h3 => ?_, fun s rest hin he => ?_,
    fun s rest i left hin he => ?_⟩
  · rw [read_assertReset, ha, if_pos rfl]
  · rw [read_assertReset, ha, if_neg Bool.false_ne_true]
    simp [abandonedMem, hs]
  · rw [read_assertReset, ha, if_neg Bool.false_ne_true]
    exact read_abandonedMem (s := { s with inputs := rest }) hs a
  · exact unlisted_region hk (by simp [h1, h2, h3])
  · exact step_rstPin_idle hin he
  · exact step_rstPin_busy hin he

/-! ### The reset state is held -/

/-- With `rst_n` high nothing is held. -/
theorem resetHeld_of_high {s : State} (h : s.rstN = true) : ResetHeld s := fun hlow => by
  rw [h] at hlow
  contradiction

/-- A BUSY core whose reset state is held has `rst_n` high. -/
theorem ResetHeld.high_of_busy {s : State} (h : ResetHeld s) {i : Instr} {left : Nat} (he : s.engine = .busy i left) :
    s.rstN = true := by
  by_contra hlow
  obtain ⟨hidle, -, -⟩ := h (Bool.eq_false_iff.mpr hlow)
  rw [he] at hidle
  contradiction

/-- A reset leaves the reset state, whatever the pin (R150). -/
theorem WasReset.resetHeld {s t : State} (h : WasReset s t) : ResetHeld t := by
  obtain ⟨p, hp, hmem⟩ := h.mem
  refine fun _ => ⟨h.engine, h.regs, fun a ha => ?_⟩
  rw [hmem, read_forget, hp a ha, if_pos rfl, unlisted_table ha]

/-- No transaction moves the pin of an IDLE core. -/
theorem txnIdle_rstN (x : Txn) (s : State) : (txnIdle x s).rstN = s.rstN := by
  cases x with
  | read addr size =>
    simp only [txnIdle, readIdle]
    split <;> rfl
  | write addr size data =>
    cases hr : s.rstN with
    | false =>
      obtain ⟨a, ha⟩ := txnIdle_of_low (.write addr size data) hr
      rw [ha, respond_rstN, hr]
    | true =>
      simp only [txnIdle, hr, if_true, writeIdle]
      split
      · exact hr
      · rename_i r _
        cases r <;> exact hr
      · simp only [respond_rstN, writeMem]
        split <;> exact hr

/-- No transaction moves the pin of a BUSY core. -/
theorem txnBusy_rstN (i : Instr) (x : Txn) (s : State) : (txnBusy i x s).rstN = s.rstN := by
  cases x with
  | read addr size =>
    simp only [txnBusy, readBusy]
    split <;> rfl
  | write addr size data =>
    simp only [txnBusy, writeBusy]
    split <;> rfl

/-- An input that an IDLE core takes keeps the reset state held. -/
theorem inputIdle_resetHeld (n : Input) {s : State} (h : ResetHeld s) : ResetHeld (inputIdle n s) := by
  cases n with
  | txn x =>
    cases hr : s.rstN with
    | true => exact resetHeld_of_high ((txnIdle_rstN x s).trans hr)
    | false =>
      obtain ⟨a, ha⟩ := txnIdle_of_low x hr
      rw [inputIdle, ha]
      exact h
  | rstPin high =>
    cases high with
    | true => exact resetHeld_of_high rfl
    | false => exact (assertReset_wasReset s).resetHeld
  | powerOn => exact (powerOn_wasReset s).resetHeld
  | quiet => exact h

/-- An input that a BUSY core takes keeps it too: the pin is high, or the core was reset. -/
theorem inputBusy_resetHeld (i : Instr) (n : Input) {s : State} (hr : s.rstN = true) :
    ResetHeld (inputBusy i n s) := by
  cases n with
  | txn x => exact resetHeld_of_high ((txnBusy_rstN i x s).trans hr)
  | rstPin high => exact inputIdle_resetHeld (.rstPin high) (resetHeld_of_high hr)
  | powerOn => exact inputIdle_resetHeld .powerOn (resetHeld_of_high hr)
  | quiet => exact resetHeld_of_high hr

theorem whileIdle_resetHeld {s : State} (h : ResetHeld s) : ResetHeld (whileIdle s) := by
  unfold whileIdle
  split
  · exact h
  · exact inputIdle_resetHeld _ h

theorem whileBusy_resetHeld (i : Instr) (left : Nat) {s : State} (hr : s.rstN = true) :
    ResetHeld (whileBusy i left s) := by
  unfold whileBusy
  split
  · exact resetHeld_of_high hr
  · exact inputBusy_resetHeld i _ hr

/-- A command keeps the pin (R138). -/
theorem resultOf_rstN (i : Instr) (s : State) : (resultOf i s).rstN = s.rstN := (resultOf_ports i s).2.1

/-- Settles O58: commands run and are issued with the pin high alone, and an input moves the pin, resets the core or, in
reset, is only answered. -/
theorem stepKeepsTheCoreInReset : Obligations.StepKeepsTheCoreInReset := by
  intro s t hs h
  rcases step_cases h with ⟨i, he, rfl⟩ | ⟨i, left, he, rfl⟩ | ⟨-, -, rfl⟩ | ⟨c, -, hc, -, rfl⟩ |
    ⟨c, left, -, hc, -, rfl⟩
  · exact resetHeld_of_high ((resultOf_rstN i s).trans (hs.high_of_busy he))
  · exact whileBusy_resetHeld i left (hs.high_of_busy he)
  · exact whileIdle_resetHeld hs
  · exact resetHeld_of_high ((resultOf_rstN _ _).trans (rstN_of_issuedWord (s := s) hc))
  · exact resetHeld_of_high (rstN_of_issuedWord (s := s) hc)

end Sys2Proof.Machine
end
